-- ==== Sys2Proof/Word.lean ====
section
/-! DEFINITION. The word types of PDCORE: bytes, 16-bit words and the texts the block writes. -/

namespace Sys2Proof

/-- One byte of the loader's input (20_memory.md R51). -/
abbrev Byte := BitVec 8

/-- The unit of input: an unsigned 16-bit value, bit 0 least significant (00_scope.md R8). -/
abbrev Word := BitVec 16

/-- A finite sequence of 7-bit ASCII characters (00_scope.md R10); that every character written is ASCII is
stated of the machine, not built into the type. -/
abbrev Text := List Char

/-- The word of a big-endian byte pair: the first byte is bits 15 to 8 (20_memory.md R51). -/
def Word.ofBytes (hi lo : Byte) : Word := hi ++ lo

/-- The first byte of a word's pair, bits 15 to 8. -/
def Word.hiByte (w : Word) : Byte := w.extractLsb' 8 8

/-- The second byte of a word's pair, bits 7 to 0. -/
def Word.loByte (w : Word) : Byte := w.extractLsb' 0 8

end Sys2Proof
end

