-- ==== Sys2Proof/Config.lean ====
section
/-! DEFINITION. What is fixed for a run or for the block: the side-set configuration and the parameters of
00_scope.md R7. The types stand here, the default values in Machine/Tables.lean. -/

namespace Sys2Proof

/-- The side-set configuration, PD's `SidesetConfig` (00_scope.md R7, 10_state.md R26, R27): the contents of the
registers CFG_WIDTH (0 to 7 can be stored, 0 to 5 are legal) and CFG_EN. -/
structure SidesetConfig where
  /-- Bits dedicated to side-set. -/
  width : BitVec 3
  /-- Whether one tail bit is reserved as the enable flag. -/
  en : Bool
  deriving DecidableEq, Repr

/-- A symbol table for a field of `k` bits: a total map from the field's values, value by value in ascending order, to
`some` text for a registered value and `none` for an unregistered one (40_opcode_tables.md R100). It is plain data, an
"immutable static mapping". -/
abbrev Table (k : Nat) := Vector (Option Text) (2 ^ k)

/-- The entry `T(v)`; there is no out-of-range value (R110). -/
def Table.entry {k : Nat} (t : Table k) (v : BitVec k) : Option Text := t[v.toNat]'v.isLt

/-- The eight symbol tables, one for each table-decoded field (40_opcode_tables.md R100). -/
structure Tables where
  /-- JMP condition; the "always" entry is the registered empty text (R102, log entry 19). -/
  cond : Table 3
  /-- WAIT source. -/
  waitSrc : Table 2
  /-- IN source. -/
  inSrc : Table 3
  /-- OUT destination. -/
  outDst : Table 3
  /-- MOV destination. -/
  movDst : Table 3
  /-- MOV operation: a prefix of the source text. -/
  movOp : Table 2
  /-- MOV source. -/
  movSrc : Table 3
  /-- SET destination. -/
  setDst : Table 3
  deriving DecidableEq, Repr

/-- One piece of a mnemonic's shape (43_instruction_decoder.md R165, log entry 28). -/
inductive Piece where
  /-- A fixed text. -/
  | lit (t : Text)
  /-- The separator `SEP`. -/
  | sep
  /-- The operand of this index with the texts around it; nothing at all where the operand is not printed. -/
  | operand (index : Nat) (before after : Text)
  deriving DecidableEq, Repr

/-- The shape of a mnemonic: its pieces from left to right. -/
abbrev Template := List Piece

/-- The shapes of the mnemonics that the source leaves open (43_instruction_decoder.md R165), each with the operands it
numbers from 0 on. The WAIT template is fixed by the source and is no field. -/
structure Templates where
  /-- The condition (not printed for "always"), the label. -/
  jmp : Template
  /-- Source, bit count. -/
  inn : Template
  /-- Destination, bit count. -/
  out : Template
  /-- The conditional word (printed only if the flag is set), the blocking word. -/
  push : Template
  /-- The conditional word (printed only if the flag is set), the blocking word. -/
  pull : Template
  /-- Destination, the source with the operation symbol prepended. -/
  mov : Template
  /-- Mode word, effective index, the diagnostic note. -/
  irq : Template
  /-- Destination, data value. -/
  set : Template
  deriving DecidableEq, Repr

/-- The parameters of the block that are the same for every word and every run (00_scope.md R7, 10_state.md R34):
`TABLES`, `TEMPLATES`, `SEP` and `IRQ_NOTE`. -/
structure Params where
  /-- `TABLES` (R101). -/
  tables : Tables
  /-- `TEMPLATES` (R165). -/
  templates : Templates
  /-- `SEP`, what stands between two operands of `in`, `out`, `mov`, `set` (R165(b)). -/
  sep : Text
  /-- `IRQ_NOTE`, the diagnostic comment every `irq` carries (R174). -/
  irqNote : Text
  deriving DecidableEq, Repr

end Sys2Proof
end

