-- ==== Sys2Proof/Syntax.lean ====
section
/-! DEFINITION. The syntax: the eight opcode classes and the nine instructions, one constructor for each row of
spec/opcode_table.json. -/

namespace Sys2Proof

/-- The eight opcode classes of bits 15 to 13 (30_encoding.md R71). -/
inductive OpClass where
  | jmp | wait | in_ | out | pushPull | mov | irq | set
  deriving DecidableEq, Repr

/-- The nine instructions with their fields (30_encoding.md R72 to R79). Every instruction has the five tail bits,
whose split depends on the configuration and so is no part of the syntax (R80). A field the tables print as a
number or look up is a bit vector of the field's width; a field that only selects a word is a Bool. Bits that no
rule reads are no field (R84, log entry 16). -/
inductive Instr where
  /-- `jmp` (R72). -/
  | jmp (tail : BitVec 5) (cond : BitVec 3) (addr : BitVec 5)
  /-- `wait` (R73). -/
  | wait (tail : BitVec 5) (pol : BitVec 1) (src : BitVec 2) (index : BitVec 5)
  /-- `in` (R74); the raw bit count, 0 stands for 32. -/
  | in_ (tail : BitVec 5) (src : BitVec 3) (bitcount : BitVec 5)
  /-- `out` (R75); the raw bit count, 0 stands for 32. -/
  | out (tail : BitVec 5) (dst : BitVec 3) (bitcount : BitVec 5)
  /-- `push` (R76 with bit 7 = 0). -/
  | push (tail : BitVec 5) (cflag block : Bool)
  /-- `pull` (R76 with bit 7 = 1). -/
  | pull (tail : BitVec 5) (cflag block : Bool)
  /-- `mov` (R77). -/
  | mov (tail : BitVec 5) (dst : BitVec 3) (op : BitVec 2) (src : BitVec 3)
  /-- `irq` (R78); the raw index, of which the low three bits are printed. -/
  | irq (tail : BitVec 5) (clr wait : Bool) (index : BitVec 5)
  /-- `set` (R79). -/
  | set (tail : BitVec 5) (dst : BitVec 3) (data : BitVec 5)
  deriving DecidableEq, Repr

/-- The opcode class of an instruction; `push` and `pull` share one (30_encoding.md R71). -/
def Instr.opClass : Instr → OpClass
  | .jmp _ _ _ => .jmp
  | .wait _ _ _ _ => .wait
  | .in_ _ _ _ => .in_
  | .out _ _ _ => .out
  | .push _ _ _ => .pushPull
  | .pull _ _ _ => .pushPull
  | .mov _ _ _ _ => .mov
  | .irq _ _ _ _ => .irq
  | .set _ _ _ => .set

/-- The five tail bits every instruction carries (41_field_decoder.md R122). -/
def Instr.tail : Instr → BitVec 5
  | .jmp t _ _ => t
  | .wait t _ _ _ => t
  | .in_ t _ _ => t
  | .out t _ _ => t
  | .push t _ _ => t
  | .pull t _ _ => t
  | .mov t _ _ _ => t
  | .irq t _ _ _ => t
  | .set t _ _ => t

end Sys2Proof
end

