-- ==== Sys2Proof/WellFormed.lean ====
section
/-! DEFINITION. What is well-formed: the side-set configuration (10_state.md R28), the loader's input (20_memory.md
R51, R52), the symbol tables (40_opcode_tables.md R112) and the templates (43_instruction_decoder.md R165). There is no
check on an instruction: every field has exactly the width of its place in the word and no encoding is illegal
(30_encoding.md R83), so every term of `Instr` is well-formed. -/

namespace Sys2Proof

/-- CFG_WIDTH holds a legal value, 0 to 5 (10_state.md R26). -/
def SidesetConfig.widthInRange (c : SidesetConfig) : Bool := c.width.toNat ≤ 5

/-- `width + (1 if enable_pin_present else 0) <= 5` (10_state.md R28). -/
def SidesetConfig.fitsTail (c : SidesetConfig) : Bool := c.width.toNat + c.en.toNat ≤ 5

/-- The configuration is legal (10_state.md R28). -/
def SidesetConfig.legal (c : SidesetConfig) : Bool := c.widthInRange && c.fitsTail

/-- The loader's input has an even byte length (20_memory.md R52). -/
def inputShapeOk (bytes : List Byte) : Bool := bytes.length % 2 == 0

/-- The values of a 3-bit field. -/
def values3 : List (BitVec 3) := [0, 1, 2, 3, 4, 5, 6, 7]

/-- The values of a 2-bit field. -/
def values2 : List (BitVec 2) := [0, 1, 2, 3]

/-- `COND(1)` is `!X` (40_opcode_tables.md R112(a)). -/
def Tables.condOneIsNotX (t : Tables) : Bool := t.cond.entry 1 == some "!X".toList

/-- Exactly one `COND` entry is the "always" entry, which prints nothing (R112(b)). -/
def Tables.oneAlways (t : Tables) : Bool := (values3.filter fun c => t.cond.entry c == some []).length == 1

/-- `MOV_OP(3)` is unregistered (R112(c)). -/
def Tables.movOpThreeReserved (t : Tables) : Bool := t.movOp.entry 3 == none

/-- `MOV_OP` registers exactly three operations, of which exactly one has no prefix (R112(d)). -/
def Tables.threeMovOps (t : Tables) : Bool :=
  (values2.filter fun o => (t.movOp.entry o).isSome).length == 3 &&
    (values2.filter fun o => t.movOp.entry o == some []).length == 1

/-- `SET_DST` has an entry whose text is `PINS` (R112(e)). -/
def Tables.someSetPins (t : Tables) : Bool := values3.any fun d => t.setDst.entry d == some "PINS".toList

/-- The constraints every admissible value of `TABLES` satisfies (40_opcode_tables.md R112). -/
def Tables.admissible (t : Tables) : Bool :=
  t.condOneIsNotX && t.oneAlways && t.movOpThreeReserved && t.threeMovOps && t.someSetPins

/-- The operands a template prints, from left to right. -/
def Template.operands (t : Template) : List Nat :=
  t.filterMap fun p => match p with
    | .lit _ => none
    | .sep => none
    | .operand k _ _ => some k

/-- A template prints each of its `n` operands exactly once, and no other (43_instruction_decoder.md R165: what each
mnemonic prints is the source's, its arrangement is the parameter). -/
def Template.printsAll (n : Nat) (t : Template) : Bool :=
  t.operands.length == n && (List.range n).all fun k => t.operands.contains k

/-- The operation word a text begins with, in lower case: the letters up to the first other character, after any
spaces. -/
def operationWord (t : Text) : Text := ((t.dropWhile fun c => c == ' ').takeWhile Char.isAlpha).map Char.toLower

/-- A template begins with a fixed text that names the operation; letter case and spacing are the template's
(10_state.md R29: "operation + operands"; 43_instruction_decoder.md R165(a), log entry 28). -/
def Template.printsOperation (word : String) (t : Template) : Bool :=
  match t with
  | [] => false
  | .lit text :: _ => operationWord text == word.toList
  | .sep :: _ => false
  | .operand _ _ _ :: _ => false

/-- A template prints its operation first and each of its `n` operands once (10_state.md R29). -/
def Template.wellFormed (word : String) (n : Nat) (t : Template) : Bool := t.printsOperation word && t.printsAll n

/-- Every template prints its operation and its operands (10_state.md R29, 43_instruction_decoder.md R165 to R175); no
mnemonic is empty then. -/
def Templates.admissible (t : Templates) : Bool :=
  Template.wellFormed "jmp" 2 t.jmp && Template.wellFormed "in" 2 t.inn && Template.wellFormed "out" 2 t.out &&
    Template.wellFormed "push" 2 t.push && Template.wellFormed "pull" 2 t.pull && Template.wellFormed "mov" 2 t.mov &&
    Template.wellFormed "irq" 3 t.irq && Template.wellFormed "set" 2 t.set

/-- A text is 7-bit ASCII (00_scope.md R10). -/
def asciiText (t : Text) : Bool := t.all fun c => decide (c.toNat < 128)

/-- Every registered text of a table is ASCII (00_scope.md R10). -/
def Table.ascii {k : Nat} (t : Table k) : Bool := t.toList.all fun e => e.all asciiText

/-- The eight tables hold ASCII texts only. -/
def Tables.ascii (t : Tables) : Bool :=
  t.cond.ascii && t.waitSrc.ascii && t.inSrc.ascii && t.outDst.ascii && t.movDst.ascii && t.movOp.ascii &&
    t.movSrc.ascii && t.setDst.ascii

/-- The texts of a template's piece are ASCII. -/
def Piece.ascii (p : Piece) : Bool :=
  match p with
  | .lit t => asciiText t
  | .sep => true
  | .operand _ before after => asciiText before && asciiText after

/-- The texts of a template are ASCII. -/
def Template.ascii (t : Template) : Bool := t.all Piece.ascii

/-- The texts of the eight templates are ASCII. -/
def Templates.ascii (t : Templates) : Bool :=
  Template.ascii t.jmp && Template.ascii t.inn && Template.ascii t.out && Template.ascii t.push &&
    Template.ascii t.pull && Template.ascii t.mov && Template.ascii t.irq && Template.ascii t.set

/-- All texts of the parameters are ASCII: `SEP` and `IRQ_NOTE` are "ASCII string, any" (00_scope.md R7), and a text
the block writes has no other character (R10). -/
def Params.ascii (p : Params) : Bool :=
  p.tables.ascii && p.templates.ascii && asciiText p.sep && asciiText p.irqNote

end Sys2Proof
end

