-- ==== Sys2Proof/Decode.lean ====
section
/-! DEFINITION. The field decoder FLD (41_field_decoder.md), the decoder on words and on bytes, and the encoder. The
bit positions are those of 30_encoding.md R70 to R79. -/

namespace Sys2Proof

/-! ## Field extraction: functions of the whole word, by absolute position (R121) -/

/-- `w[lo+len-1 : lo]` (00_scope.md R8). -/
def slice (w : Word) (lo len : Nat) : BitVec len := w.extractLsb' lo len

/-- The single bit `w[i]` (00_scope.md R8). -/
def bitAt (w : Word) (i : Nat) : Bool := w.getLsbD i

/-- `opcode_class(w) = w[15:13]` (R120). -/
def opcodeClass (w : Word) : BitVec 3 := slice w 13 3

/-- `tail(w) = w[12:8]` (R122). -/
def tailOf (w : Word) : BitVec 5 := slice w 8 5

/-- `f_jmp`: condition and address (R123). -/
def fJmp (w : Word) : BitVec 3 × BitVec 5 := (slice w 5 3, slice w 0 5)

/-- `f_wait`: polarity, source, index (R124). -/
def fWait (w : Word) : BitVec 1 × BitVec 2 × BitVec 5 := (slice w 7 1, slice w 5 2, slice w 0 5)

/-- `f_in`: source and raw bit count (R125). -/
def fIn (w : Word) : BitVec 3 × BitVec 5 := (slice w 5 3, slice w 0 5)

/-- `f_out`: destination and raw bit count (R126). -/
def fOut (w : Word) : BitVec 3 × BitVec 5 := (slice w 5 3, slice w 0 5)

/-- `f_pushpull`: the pull bit, the conditional flag, the blocking flag; bits 4:0 are not extracted (R127). -/
def fPushPull (w : Word) : Bool × Bool × Bool := (bitAt w 7, bitAt w 6, bitAt w 5)

/-- `f_mov`: destination, operation, source (R128). -/
def fMov (w : Word) : BitVec 3 × BitVec 2 × BitVec 3 := (slice w 5 3, slice w 3 2, slice w 0 3)

/-- `f_irq`: clear flag, wait flag, raw index; bit 7 is not extracted (R129). The effective index is made from the raw
one in Machine/Operands.lean. -/
def fIrq (w : Word) : Bool × Bool × BitVec 5 := (bitAt w 6, bitAt w 5, slice w 0 5)

/-- `f_set`: destination and data (R130). -/
def fSet (w : Word) : BitVec 3 × BitVec 5 := (slice w 5 3, slice w 0 5)

/-! ## Dispatch on the class (43_instruction_decoder.md R161) -/

/-- The class a 3-bit class number selects (30_encoding.md R71, log entry 10). All eight values have a class, so there
is no placeholder arm (R163(a)). -/
def classOfNumber (c : BitVec 3) : OpClass :=
  match c with
  | 0 => .jmp
  | 1 => .wait
  | 2 => .in_
  | 3 => .out
  | 4 => .pushPull
  | 5 => .mov
  | 6 => .irq
  | 7 => .set

/-- The number of a class (30_encoding.md R71). -/
def numberOfClass (c : OpClass) : BitVec 3 :=
  match c with
  | .jmp => 0
  | .wait => 1
  | .in_ => 2
  | .out => 3
  | .pushPull => 4
  | .mov => 5
  | .irq => 6
  | .set => 7

/-- The instruction of a word of class JMP (R72). -/
def instrJmp (w : Word) : Instr := .jmp (tailOf w) (fJmp w).1 (fJmp w).2

/-- The instruction of a word of class WAIT (R73). -/
def instrWait (w : Word) : Instr := .wait (tailOf w) (fWait w).1 (fWait w).2.1 (fWait w).2.2

/-- The instruction of a word of class IN (R74). -/
def instrIn (w : Word) : Instr := .in_ (tailOf w) (fIn w).1 (fIn w).2

/-- The instruction of a word of class OUT (R75). -/
def instrOut (w : Word) : Instr := .out (tailOf w) (fOut w).1 (fOut w).2

/-- The instruction of a word of class PUSH/PULL: bit 7 selects `pull` (R76). -/
def instrPushPull (w : Word) : Instr :=
  if (fPushPull w).1 then .pull (tailOf w) (fPushPull w).2.1 (fPushPull w).2.2
  else .push (tailOf w) (fPushPull w).2.1 (fPushPull w).2.2

/-- The instruction of a word of class MOV (R77). -/
def instrMov (w : Word) : Instr := .mov (tailOf w) (fMov w).1 (fMov w).2.1 (fMov w).2.2

/-- The instruction of a word of class IRQ (R78). -/
def instrIrq (w : Word) : Instr := .irq (tailOf w) (fIrq w).1 (fIrq w).2.1 (fIrq w).2.2

/-- The instruction of a word of class SET (R79). -/
def instrSet (w : Word) : Instr := .set (tailOf w) (fSet w).1 (fSet w).2

/-- The instruction of a word: total over all 65536 words (43_instruction_decoder.md R161, R162). -/
def decodeWord (w : Word) : Instr :=
  match classOfNumber (opcodeClass w) with
  | .jmp => instrJmp w
  | .wait => instrWait w
  | .in_ => instrIn w
  | .out => instrOut w
  | .pushPull => instrPushPull w
  | .mov => instrMov w
  | .irq => instrIrq w
  | .set => instrSet w

/-! ## Decoding bytes -/

/-- Why the bytes at an address are no instruction. No word is refused (30_encoding.md R83); only a missing word is. -/
inductive DecodeError where
  /-- No byte at all. -/
  | noBytes
  /-- One byte of a pair is missing: an instruction is exactly one 16-bit word (30_encoding.md R70). -/
  | halfWord
  deriving DecidableEq, Repr

/-- The first instruction of a byte sequence and the bytes after it: one big-endian pair (20_memory.md R51). -/
def decodeBytes (bytes : List Byte) : Except DecodeError (Instr × List Byte) :=
  match bytes with
  | [] => .error .noBytes
  | [_] => .error .halfWord
  | hi :: lo :: rest => .ok (decodeWord (Word.ofBytes hi lo), rest)

/-- The bytes of a word as the loader gets them: the high byte first (20_memory.md R51). -/
def wordBytes (w : Word) : List Byte := [w.hiByte, w.loByte]

/-- The words of a byte sequence of even length (20_memory.md R51). -/
def wordsOfBytes : List Byte → List Word
  | hi :: lo :: rest => Word.ofBytes hi lo :: wordsOfBytes rest
  | _ => []

/-- The bytes of a word sequence. -/
def bytesOfWords (ws : List Word) : List Byte := ws.flatMap wordBytes

/-- The word of `nbits` bits of `w`, numbered as spec/opcode_table.json numbers them: bit 0 is the word's least
significant bit, bits at or above `nbits` are 0, and no instruction is longer than 16 bits (30_encoding.md R70). -/
def tableWord (nbits w : Nat) : Word := BitVec.ofNat 16 (w % 2 ^ min nbits 16)

/-- What the decoder reads from the table word, laid out in bytes as the loader stores it. -/
def decodeTableWord (nbits w : Nat) : Option Instr :=
  match decodeBytes (wordBytes (tableWord nbits w)) with
  | .ok (i, _) => some i
  | .error _ => none

/-! ## Encoding -/

/-- A word from its three parts: class, tail, operand byte (30_encoding.md R70). -/
def assemble (c : OpClass) (tail : BitVec 5) (operand : BitVec 8) : Word := numberOfClass c ++ tail ++ operand

/-- The operand byte of an instruction; a bit no rule reads is written 0 (R72 to R79, R84, log entry 16). -/
def operandByte (i : Instr) : BitVec 8 :=
  match i with
  | .jmp _ cond addr => cond ++ addr
  | .wait _ pol src index => pol ++ src ++ index
  | .in_ _ src bitcount => src ++ bitcount
  | .out _ dst bitcount => dst ++ bitcount
  | .push _ cflag block => 0#1 ++ BitVec.ofBool cflag ++ BitVec.ofBool block ++ 0#5
  | .pull _ cflag block => 1#1 ++ BitVec.ofBool cflag ++ BitVec.ofBool block ++ 0#5
  | .mov _ dst op src => dst ++ op ++ src
  | .irq _ clr wait index => 0#1 ++ BitVec.ofBool clr ++ BitVec.ofBool wait ++ index
  | .set _ dst data => dst ++ data

/-- The word of an instruction. -/
def encode (i : Instr) : Word := assemble i.opClass i.tail (operandByte i)

/-- The bytes of an instruction, high byte first. -/
def encodeBytes (i : Instr) : List Byte := wordBytes (encode i)

/-! ## The opcode map (30_encoding.md R82) -/

/-- One row of the opcode map: a word selects it iff its masked bits equal `pattern`. -/
structure OpRow where
  /-- The row's name in spec/opcode_table.json. -/
  mnemonic : Text
  /-- Which bits select the row. -/
  mask : Word
  /-- What they must be. -/
  pattern : Word
  deriving DecidableEq, Repr

/-- Whether a word selects a row: `(w & mask) = match` (R82). -/
def OpRow.selects (r : OpRow) (w : Word) : Bool := w &&& r.mask == r.pattern

/-- The row of an instruction (R82). -/
def rowOf (i : Instr) : OpRow :=
  match i with
  | .jmp _ _ _ => ⟨"jmp".toList, 0xE000, 0x0000⟩
  | .wait _ _ _ _ => ⟨"wait".toList, 0xE000, 0x2000⟩
  | .in_ _ _ _ => ⟨"in".toList, 0xE000, 0x4000⟩
  | .out _ _ _ => ⟨"out".toList, 0xE000, 0x6000⟩
  | .push _ _ _ => ⟨"push".toList, 0xE080, 0x8000⟩
  | .pull _ _ _ => ⟨"pull".toList, 0xE080, 0x8080⟩
  | .mov _ _ _ _ => ⟨"mov".toList, 0xE000, 0xA000⟩
  | .irq _ _ _ _ => ⟨"irq".toList, 0xE000, 0xC000⟩
  | .set _ _ _ => ⟨"set".toList, 0xE000, 0xE000⟩

/-- The nine rows of the opcode map in the table's order (R82). -/
def opcodeRows : List OpRow :=
  [⟨"jmp".toList, 0xE000, 0x0000⟩, ⟨"wait".toList, 0xE000, 0x2000⟩, ⟨"in".toList, 0xE000, 0x4000⟩,
   ⟨"out".toList, 0xE000, 0x6000⟩, ⟨"push".toList, 0xE080, 0x8000⟩, ⟨"pull".toList, 0xE080, 0x8080⟩,
   ⟨"mov".toList, 0xE000, 0xA000⟩, ⟨"irq".toList, 0xE000, 0xC000⟩, ⟨"set".toList, 0xE000, 0xE000⟩]

/-- The bits of a word that some rule reads, given its class: all but `w[4:0]` in class 4 and `w[7]` in class 6
(30_encoding.md R84). -/
def careMask (w : Word) : Word :=
  match classOfNumber (opcodeClass w) with
  | .jmp => 0xFFFF
  | .wait => 0xFFFF
  | .in_ => 0xFFFF
  | .out => 0xFFFF
  | .pushPull => 0xFFE0
  | .mov => 0xFFFF
  | .irq => 0xFF7F
  | .set => 0xFFFF

end Sys2Proof
end

