-- ==== Sys2Proof/Machine/Tables.lean ====
section
/-! DEFINITION. The default symbol tables (40_opcode_tables.md R102 to R109), the default templates
(43_instruction_decoder.md R165) and the default value of the parameters. The spec takes most entries from general
knowledge and marks them so: log entries 8 and 9. -/

namespace Sys2Proof.Machine

/-- `COND` (R102). Value 0 is "always": registered, printed as nothing. -/
def condTable : Table 3 :=
  #v[some [], some "!X".toList, some "X--".toList, some "!Y".toList,
    some "Y--".toList, some "X!=Y".toList, some "PIN".toList, some "!OSRE".toList]

/-- `WAIT_SRC` (R103). -/
def waitSrcTable : Table 2 :=
  #v[some "GPIO".toList, some "PIN".toList, some "IRQ".toList, none]

/-- `IN_SRC` (R104). -/
def inSrcTable : Table 3 :=
  #v[some "PINS".toList, some "X".toList, some "Y".toList, some "NULL".toList,
    none, none, some "ISR".toList, some "OSR".toList]

/-- `OUT_DST` (R105). -/
def outDstTable : Table 3 :=
  #v[some "PINS".toList, some "X".toList, some "Y".toList, some "NULL".toList,
    some "PINDIRS".toList, some "PC".toList, some "ISR".toList, some "EXEC".toList]

/-- `MOV_DST` (R106). -/
def movDstTable : Table 3 :=
  #v[some "PINS".toList, some "X".toList, some "Y".toList, none,
    some "EXEC".toList, some "PC".toList, some "ISR".toList, some "OSR".toList]

/-- `MOV_OP` (R107). Value 0 is registered with no prefix. -/
def movOpTable : Table 2 :=
  #v[some [], some "!".toList, some "::".toList, none]

/-- `MOV_SRC` (R108). -/
def movSrcTable : Table 3 :=
  #v[some "PINS".toList, some "X".toList, some "Y".toList, some "NULL".toList,
    none, some "STATUS".toList, some "ISR".toList, some "OSR".toList]

/-- `SET_DST` (R109). -/
def setDstTable : Table 3 :=
  #v[some "PINS".toList, some "X".toList, some "Y".toList, none,
    some "PINDIRS".toList, none, none, none]

/-- The default `TABLES` (R101). -/
def defaultTables : Tables where
  cond := condTable
  waitSrc := waitSrcTable
  inSrc := inSrcTable
  outDst := outDstTable
  movDst := movDstTable
  movOp := movOpTable
  movSrc := movSrcTable
  setDst := setDstTable

/-- The opcode word and one space (R165(a)). -/
def opcodePiece (w : String) : Piece := .lit (w.toList ++ " ".toList)

/-- The template of `in`, `out`, `mov` and `set`: two operands with `SEP` between (R165(b)). -/
def operandTemplate (w : String) : Template := [opcodePiece w, .operand 0 [] [], .sep, .operand 1 [] []]

/-- The template of `jmp`, `push` and `pull`: the first word, if it is printed, and one space, then the second word
(R165(c), (d)). -/
def optionalWordTemplate (w : String) : Template := [opcodePiece w, .operand 0 [] " ".toList, .operand 1 [] []]

/-- Three words with one space between (R165(c)). -/
def threeWordTemplate (w : String) : Template :=
  [opcodePiece w, .operand 0 [] " ".toList, .operand 1 [] " ".toList, .operand 2 [] []]

/-- The default `TEMPLATES` (R165 with R166 to R175). -/
def defaultTemplates : Templates where
  jmp := optionalWordTemplate "jmp"
  inn := operandTemplate "in"
  out := operandTemplate "out"
  push := optionalWordTemplate "push"
  pull := optionalWordTemplate "pull"
  mov := operandTemplate "mov"
  irq := threeWordTemplate "irq"
  set := operandTemplate "set"

/-- The template the source fixes: `wait <polarity> <source> <index>` (R165, R167). -/
def waitTemplate : Template := threeWordTemplate "wait"

/-- The default `SEP`: one comma (00_scope.md R7). -/
def defaultSep : Text := ",".toList

/-- The default `IRQ_NOTE`, 47 characters (R174). -/
def defaultIrqNote : Text := "; WARNING: irq decoding is unstable/unsupported".toList

/-- The default value of all parameters (00_scope.md R7). -/
def defaultParams : Params where
  tables := defaultTables
  templates := defaultTemplates
  sep := defaultSep
  irqNote := defaultIrqNote

end Sys2Proof.Machine
end

