-- ==== Sys2Proof/Machine/State.lean ====
section
/-! DEFINITION. The state of PDCORE: the ten elements of 10_state.md R21, the two "written since reset" bits of
70_reset_and_hazards.md R252, the block's constants (10_state.md R34), and the moves the host still has to make. All of
it is plain data. -/

namespace Sys2Proof.Machine

/-- PHASE (10_state.md R25). -/
inductive Phase where
  | idle | decode | collect | emit | done
  deriving DecidableEq, Repr

/-- ERR (10_state.md R21, 60_exceptions.md R220). -/
inductive Err where
  /-- E_NONE. -/
  | none
  /-- E_SHAPE: the loader was given an odd number of bytes. -/
  | shape
  deriving DecidableEq, Repr

/-- A DecodedInstruction, the record PROG holds for an address (10_state.md R29). -/
structure DecodedInstruction where
  /-- Operation and operands, already formatted; never empty with admissible parameters (log entry 28). -/
  mnemonic : Text
  /-- The jump target, an address from 0 to 31, set for `jmp` only (43_instruction_decoder.md R176). -/
  target : Option Nat
  /-- The side-set/delay text, possibly empty. -/
  sidesetText : Text
  deriving DecidableEq, Repr

/-- A record of the emission stream OUT (10_state.md R31). -/
inductive EmitRecord where
  /-- The label of an address. -/
  | label (a : Nat)
  /-- The instruction at an address. -/
  | instr (a : Nat) (mnemonic sidesetText : Text)
  deriving DecidableEq, Repr

/-- What the host can do to the block (70_reset_and_hazards.md R258). Observing changes nothing and is no move here:
see `hostObserve` and `hostStatus`. -/
inductive HostMove where
  /-- Apply reset (R250). -/
  | reset
  /-- Write CFG_WIDTH (R251). -/
  | writeWidth (width : BitVec 3)
  /-- Write CFG_EN (R251). -/
  | writeEn (en : Bool)
  /-- Supply the program as bytes to the loader (20_memory.md R51). -/
  | loadBytes (bytes : List Byte)
  /-- Write N and WMEM directly as words (R251). -/
  | loadWords (words : List Word)
  /-- Request a run (R252). -/
  | start
  deriving DecidableEq, Repr

/-- The state of the machine. -/
structure State where
  /-- CFG_WIDTH (R26). -/
  cfgWidth : BitVec 3
  /-- CFG_EN (R27). -/
  cfgEn : Bool
  /-- Whether CFG_WIDTH was written since reset (R36, R252). -/
  cfgWidthWritten : Bool
  /-- Whether CFG_EN was written since reset (R36, R252). -/
  cfgEnWritten : Bool
  /-- N, the number of input words (R23). -/
  n : Nat
  /-- WMEM as byte cells: word `a` is the pair at byte addresses `2a` and `2a+1` (R22, R51, log entry 11). -/
  wmem : List Host.Cell
  /-- PROG (R29). -/
  prog : List (Option DecodedInstruction)
  /-- REF (R30). -/
  ref : List Nat
  /-- OUT (R31). -/
  out : List EmitRecord
  /-- SCAN, the program counter (R24). -/
  scan : Nat
  /-- PHASE (R25). -/
  phase : Phase
  /-- ERR (R33). -/
  err : Err
  /-- MODEL's own field, not a state element of the spec: the block's constants TABLES, TEMPLATES, SEP and IRQ_NOTE
  (R34), the argument the model takes for them (00_scope.md R7). No step writes them (log entry 27). -/
  params : Params
  /-- MODEL's own field, not the spec's: what the host does in the coming steps, one entry a step, `none` where it
  makes no move and the block takes its own step; after the last entry it makes no more moves (log entry 3). -/
  hostMoves : List (Option HostMove)
  deriving DecidableEq, Repr

/-- The stops of a step by fault. Neither can happen in a state a run reaches: they keep an access to something the
spec says does not exist from having a value. -/
inductive Fault where
  /-- Raised by the DECODE step where WMEM has no whole word at SCAN although SCAN < N (20_memory.md R54 says no rule
  reads such a word). Safe. -/
  | absentWord (address : Nat)
  /-- Raised by the COLLECT and EMIT steps where PROG[SCAN] is not `some` although SCAN < N (44 R202 says every entry
  is `some` then). Safe. -/
  | undecodedEntry (address : Nat)
  deriving DecidableEq, Repr

/-- The stops of a step by refusal. -/
inductive Refusal where
  /-- An arm of `exec` that has no meaning yet; no arm of this model answers it. Safe. -/
  | notModelled (mnemonic : String)
  /-- Raised by an instruction's meaning where CFG_WIDTH or CFG_EN was not written since reset, which must not be
  read then (10_state.md R36); no run starts so (R252). Safe. -/
  | unwrittenConfiguration
  /-- Raised by an instruction's meaning where the configuration is illegal and the side-set text has no value
  (42_sideset_delay.md R155); no run starts so (R232). Safe. -/
  | illegalConfiguration
  /-- Raised by a host move that would write the configuration or the program outside IDLE: the spec gives the host no
  such move (70_reset_and_hazards.md R254, R255, U6). It errs toward proving: unsafe for an integration whose host
  does it (log entry 6). -/
  | hostMoveOutsideIdle
  deriving DecidableEq, Repr

/-- The state right after reset (10_state.md R36). CFG_WIDTH and CFG_EN are unspecified there; the model names 0 and
false (log entry 1), and the two written bits keep any step from reading them. The constants have their default value
(00_scope.md R7); a block with others is this state with another `params` (log entry 27). -/
def State.reset : State where
  cfgWidth := 0
  cfgEn := false
  cfgWidthWritten := false
  cfgEnWritten := false
  n := 0
  wmem := []
  prog := []
  ref := []
  out := []
  scan := 0
  phase := .idle
  err := .none
  params := defaultParams
  hostMoves := []

end Sys2Proof.Machine
end

