-- ==== Sys2Proof/Machine/Memory.lean ====
section
/-! DEFINITION. Word memory WMEM (20_memory.md) as a list of byte cells in one canonical form: addresses strictly
rising. An address that is not listed has no value (log entry 11), so no entry can equal what an unlisted address
reads as. -/

namespace Sys2Proof.Machine

/-- WMEM's cells. Byte addresses `2a` and `2a+1` hold the high and the low byte of word `a` (20_memory.md R51). -/
abbrev Memory := List Host.Cell

/-- The canonical form: addresses strictly rising. -/
def Memory.wf : Memory → Bool
  | [] => true
  | [_] => true
  | (a, _) :: (b, y) :: rest => decide (a < b) && Memory.wf ((b, y) :: rest)

/-- The byte at a byte address, if the address exists. -/
def Memory.readByte : Memory → Nat → Option Byte
  | [], _ => none
  | (k, b) :: rest, a => if a = k then some b else Memory.readByte rest a

/-- Write one byte, keeping the canonical form. The block never writes WMEM (20_memory.md R53); only what stands for
a load does. -/
def Memory.writeByte : Memory → Nat → Byte → Memory
  | [], a, b => [(a, b)]
  | (k, c) :: rest, a, b =>
    if a < k then (a, b) :: (k, c) :: rest
    else if a = k then (a, b) :: rest
    else (k, c) :: Memory.writeByte rest a b

/-- Consecutive bytes from an address on. -/
def Memory.ofBytesFrom : Nat → List Byte → Memory
  | _, [] => []
  | a, b :: rest => (a, b) :: Memory.ofBytesFrom (a + 1) rest

/-- The memory that holds the loader's bytes from address 0 (20_memory.md R51). -/
def Memory.ofBytes (bytes : List Byte) : Memory := Memory.ofBytesFrom 0 bytes

/-- `MemRead(a, 2) = WMEM[a]`, if word `a` exists (20_memory.md R52). -/
def Memory.readWord (m : Memory) (a : Nat) : Option Word :=
  match m.readByte (2 * a), m.readByte (2 * a + 1) with
  | some hi, some lo => some (Word.ofBytes hi lo)
  | _, _ => none

/-- Write word `a`: what a host's direct write of one word does (70_reset_and_hazards.md R251). -/
def Memory.writeWord (m : Memory) (a : Nat) (w : Word) : Memory :=
  (m.writeByte (2 * a) w.hiByte).writeByte (2 * a + 1) w.loByte

/-- The bytes that exist of word `a`, first byte first: what the DECODE step hands to the decoder. -/
def Memory.fetchBytes (m : Memory) (a : Nat) : List Byte :=
  match m.readByte (2 * a), m.readByte (2 * a + 1) with
  | some hi, some lo => [hi, lo]
  | some hi, none => [hi]
  | none, _ => []

end Sys2Proof.Machine
end

