-- ==== Sys2Proof/Machine/Operands.lean ====
section
/-! DEFINITION. The operand forms: how field values become text, how a template prints them, and which parameters are
admissible. -/

namespace Sys2Proof.Machine

/-- `dec(n)`: decimal digits, no leading zeros (00_scope.md R11). -/
def dec (n : Nat) : Text := Nat.toDigits 10 n

/-- `hexl(n)`: lower-case hexadecimal digits, no prefix, no leading zeros (00_scope.md R12). -/
def hexl (n : Nat) : Text := Nat.toDigits 16 n

/-- `label(a) = "label_0x" ++ hexl(a)` (44_program_disassembler.md R192). -/
def label (a : Nat) : Text := "label_0x".toList ++ hexl a

/-- `RESERVED_TEXT` (40_opcode_tables.md R110). -/
def reservedText : Text := "RESERVED".toList

/-- `lookup(T, v)` of a table's answer: the registered text, or `RESERVED` (40_opcode_tables.md R110). -/
def lookup (entry : Option Text) : Text :=
  match entry with
  | some t => t
  | none => reservedText

/-- Whether a `COND` entry is the "always" entry: registered, with nothing to print (40_opcode_tables.md R102,
R112(b), log entry 19). -/
def isAlways (entry : Option Text) : Bool := entry == some []

/-- The condition a `jmp` prints: nothing for the "always" entry, else the looked-up text (43_instruction_decoder.md
R166). -/
def conditionText (entry : Option Text) : Option Text := if isAlways entry then none else some (lookup entry)

/-- `bc32`: 0 stands for 32 (41_field_decoder.md R132). -/
def bc32 (k : Nat) : Nat := if k = 0 then 32 else k

/-- The printed bit count of `in` and `out` (30_encoding.md R81(a)). -/
def bitcountText (k : BitVec 5) : Text := dec (bc32 k.toNat)

/-- `eff_index = index & 0b111` (41_field_decoder.md R129). -/
def effIndex (index : BitVec 5) : Nat := index.toNat &&& 0b111

/-- The text of an unsigned field printed as it stands (30_encoding.md R81). -/
def fieldText (v : BitVec k) : Text := dec v.toNat

/-! ## Templates (43_instruction_decoder.md R165) -/

/-- The text of one piece of a template, given `SEP` and the operands; an operand that is `none` is not printed. -/
def pieceText (sep : Text) (operands : List (Option Text)) (piece : Piece) : Text :=
  match piece with
  | .lit t => t
  | .sep => sep
  | .operand k before after =>
    match operands[k]? with
    | some (some t) => before ++ t ++ after
    | some none => []
    | none => []

/-- A mnemonic: the texts of its template's pieces, one after the other. -/
def printTemplate (sep : Text) (t : Template) (operands : List (Option Text)) : Text :=
  t.flatMap (pieceText sep operands)

end Sys2Proof.Machine

namespace Sys2Proof

open Machine

/-! ## The values the parameters may take -/

/-- The fragment the source fixes: `set` with the destination text `PINS` and the data 0 prints `set PINS,0`, whether
its comma comes from `SEP` or from the template (43_instruction_decoder.md R165, log entry 28). -/
def Params.printsSetFragment (p : Params) : Bool :=
  printTemplate p.sep p.templates.set [some "PINS".toList, some "0".toList] == "set PINS,0".toList

/-- The values the parameters may take: ASCII texts, tables and templates within the source's constraints, and the
fragment the source fixes (00_scope.md R7, 40_opcode_tables.md R112, 43_instruction_decoder.md R165). -/
def Params.admissible (p : Params) : Bool :=
  p.ascii && p.tables.admissible && p.templates.admissible && p.printsSetFragment

end Sys2Proof
end

