-- ==== Sys2Proof/Machine/Sideset.lean ====
section
/-! DEFINITION. The side-set/delay decoder SSD (42_sideset_delay.md): the tail of every word, split by the
configuration. Natural numbers as in the spec's pseudocode (41 R131). -/

namespace Sys2Proof.Machine

/-- Step 1, `sideset_bits`: with width 0 the enable bit is not counted (R141). -/
def sidesetBits (c : SidesetConfig) : Nat := if 0 < c.width.toNat then c.width.toNat + c.en.toNat else 0

/-- Step 2, `delay_bits` (R142). -/
def delayBits (c : SidesetConfig) : Nat := 5 - sidesetBits c

/-- Whether bit 4 of the tail is an enable flag (R143). -/
def hasEnableFlag (c : SidesetConfig) : Bool := c.en && decide (0 < c.width.toNat)

/-- Step 3, the flag: bit 4 of the tail where there is one, else not enabled (R143, R146, R148, log entry 15). -/
def enableFlag (c : SidesetConfig) (t : BitVec 5) : Bool := hasEnableFlag c && t.getLsbD 4

/-- Step 3, the tail `t'` with the flag bit cleared where there is one (R143). -/
def clearedTail (c : SidesetConfig) (t : BitVec 5) : Nat := if hasEnableFlag c then t.toNat &&& 0b01111 else t.toNat

/-- Step 4, `delay` (R144). -/
def delayOf (c : SidesetConfig) (t : BitVec 5) : Nat := clearedTail c t &&& ((1 <<< delayBits c) - 1)

/-- Step 5, `sideset_value` (R145). -/
def sidesetValue (c : SidesetConfig) (t : BitVec 5) : Nat := clearedTail c t >>> delayBits c

/-- Step 6, `enabled`: the flag if an enable bit is configured, else the heuristic that a value above 0 is shown
(R146, R153). -/
def sidesetEnabled (c : SidesetConfig) (t : BitVec 5) : Bool :=
  if c.en then enableFlag c t else decide (0 < sidesetValue c t)

/-- The side part of step 7 (R147). -/
def sidePart (c : SidesetConfig) (t : BitVec 5) : Option Text :=
  if sidesetEnabled c t then some ("side ".toList ++ dec (sidesetValue c t)) else none

/-- The delay part of step 7 (R147). -/
def delayPart (c : SidesetConfig) (t : BitVec 5) : Option Text :=
  if 0 < delayOf c t then some ("[".toList ++ dec (delayOf c t) ++ "]".toList) else none

/-- The parts joined by one space (R147). -/
def joinParts (a b : Option Text) : Text :=
  match a, b with
  | some x, some y => x ++ " ".toList ++ y
  | some x, none => x
  | none, some y => y
  | none, none => []

/-- `ssd(t, width, en)`, for a legal configuration (R148, R155). -/
def ssd (c : SidesetConfig) (t : BitVec 5) : Text := joinParts (sidePart c t) (delayPart c t)

end Sys2Proof.Machine
end

