-- ==== Sys2Proof/Machine/Ops.lean ====
section
/-! DEFINITION. The named operations on the state: reading the configuration, writing PROG, collecting a target,
emitting an address, raising E_SHAPE, reset, configure, load and start. -/

namespace Sys2Proof.Machine

open Host (Outcome)

/-- The contents of the configuration registers. -/
def State.config (s : State) : SidesetConfig := ⟨s.cfgWidth, s.cfgEn⟩

/-- Whether both configuration registers were written since reset (10_state.md R36, 70 R252). -/
def State.configWritten (s : State) : Bool := s.cfgWidthWritten && s.cfgEnWritten

/-- The configuration as SSD may read it: written since reset (10_state.md R36) and legal (R28). -/
def readConfig (s : State) : Except Refusal SidesetConfig :=
  if s.configWritten then
    if s.config.legal then .ok s.config else .error .illegalConfiguration
  else .error .unwrittenConfiguration

/-- Store a record, all three fields at once, at PROG[SCAN] and advance SCAN by one (44_program_disassembler.md R201,
10_state.md R29). -/
def putRecord (d : DecodedInstruction) (s : State) : State :=
  { s with prog := s.prog.set s.scan (some d), scan := s.scan + 1 }

/-- What every instruction does: store its mnemonic and target with the side-set text of its tail, whatever the class
(43_instruction_decoder.md R160, R164). It reads the configuration, so it stops where that must not be read or has no
meaning. -/
def storeRecord (mnemonic : Text) (target : Option Nat) (tail : BitVec 5) (s : State) : Outcome State Fault Refusal :=
  match readConfig s with
  | .ok c => .next (putRecord ⟨mnemonic, target, ssd c tail⟩ s)
  | .error r => .refused r

/-- Enter a phase of the sweep at address 0 (10_state.md R24, R25). -/
def enterPhase (p : Phase) (s : State) : State := { s with phase := p, scan := 0 }

/-- `REF <- REF ++ [t]` if `t` is not in REF yet (44_program_disassembler.md R194, R202). -/
def addRef (ref : List Nat) (t : Nat) : List Nat := if t ∈ ref then ref else ref ++ [t]

/-- Collect the target of one record, if it has one (R202). -/
def collectTarget (ref : List Nat) (target : Option Nat) : List Nat :=
  match target with
  | some t => addRef ref t
  | none => ref

/-- Collect a record's target and advance SCAN by one (R202). -/
def putTarget (target : Option Nat) (s : State) : State :=
  { s with ref := collectTarget s.ref target, scan := s.scan + 1 }

/-- The records of one address: its label if it is in REF, then its instruction (R197, R203). -/
def recordsOf (ref : List Nat) (a : Nat) (d : DecodedInstruction) : List EmitRecord :=
  (if a ∈ ref then [.label a] else []) ++ [.instr a d.mnemonic d.sidesetText]

/-- Append the records of address SCAN to OUT in one step and advance SCAN by one (R203). -/
def putEmission (d : DecodedInstruction) (s : State) : State :=
  { s with out := s.out ++ recordsOf s.ref s.scan d, scan := s.scan + 1 }

/-- End the sweep: PHASE becomes DONE and SCAN stays (R203). -/
def endRun (s : State) : State := { s with phase := .done }

/-- PROG[SCAN], if decoding has written it. -/
def currentRecord (s : State) : Option DecodedInstruction := (s.prog[s.scan]?).join

/-! ## The exception, and the way out of it -/

/-- Taking the block's one exception, `raise E_SHAPE(L)`: ERR is set and nothing else changes. No program counter is
saved, no mode switched, no vector fetched (60_exceptions.md R222, R228). -/
def raiseShape (s : State) : State := { s with err := .shape }

/-- Reset (70_reset_and_hazards.md R250): every element takes its reset value, the block's constants (10_state.md R34)
and the host's further moves stay. It is the only way back from E_SHAPE (60_exceptions.md R229) and out of DONE
(R260). -/
def applyReset (s : State) : State := { State.reset with params := s.params, hostMoves := s.hostMoves }

/-! ## Configure, load, start -/

/-- Write CFG_WIDTH (10_state.md R26). -/
def writeCfgWidth (width : BitVec 3) (s : State) : State := { s with cfgWidth := width, cfgWidthWritten := true }

/-- Write CFG_EN (10_state.md R27). -/
def writeCfgEn (en : Bool) (s : State) : State := { s with cfgEn := en, cfgEnWritten := true }

/-- Load words: N and WMEM (70_reset_and_hazards.md R251). -/
def loadWords (words : List Word) (s : State) : State :=
  { s with n := words.length, wmem := Memory.ofBytes (bytesOfWords words) }

/-- The byte loader: an even number of bytes is loaded as big-endian pairs (20_memory.md R51); an odd number raises
E_SHAPE and loads nothing (60_exceptions.md R222). -/
def loadBytes (bytes : List Byte) (s : State) : State :=
  if inputShapeOk bytes then { s with n := bytes.length / 2, wmem := Memory.ofBytes bytes } else raiseShape s

/-- The start's precondition (70_reset_and_hazards.md R252). -/
def startEnabled (s : State) : Bool :=
  s.phase == .idle && s.err == .none && s.config.legal && s.configWritten

/-- The start's effect (70_reset_and_hazards.md R252). -/
def beginRun (s : State) : State :=
  { enterPhase .decode s with prog := List.replicate s.n none, ref := [], out := [] }

/-- A start request: if the precondition fails the step does not exist and the block stays as it is
(70_reset_and_hazards.md R252, 60_exceptions.md R232, log entry 5). -/
def startRun (s : State) : State := if startEnabled s then beginRun s else s

/-! ## Placing a word where the next step fetches it -/

/-- A legal, written configuration: the state's own, or (0, false) where it has none (log entry 7). -/
def ensureConfig (s : State) : State :=
  match readConfig s with
  | .ok _ => s
  | .error _ => writeCfgEn false (writeCfgWidth 0 s)

/-- The state in which the DECODE step is the next one and finds `w` at SCAN: the word is in WMEM, N and PROG reach
beyond it, and the host makes no move (log entry 7). -/
def placeWord (w : Word) (s : State) : State :=
  { ensureConfig s with
    n := max s.n (s.scan + 1)
    wmem := Memory.writeWord s.wmem s.scan w
    prog := s.prog ++ List.replicate (max s.n (s.scan + 1) - s.prog.length) none
    phase := .decode
    err := .none
    hostMoves := [] }

end Sys2Proof.Machine
end

