-- ==== Sys2Proof/Machine/HostPort.lean ====
section
/-! DEFINITION. The host's side of the block (70_reset_and_hazards.md R258): its moves and what it may observe. -/

namespace Sys2Proof.Machine

open Host (Outcome)

/-- A move the host has only while PHASE = IDLE (R254, R255, R258); outside IDLE the spec gives it no such move. -/
def onlyInIdle (f : State → State) (s : State) : Outcome State Fault Refusal :=
  if s.phase = .idle then .next (f s) else .refused .hostMoveOutsideIdle

/-- What one host move does (R258). -/
def hostMove (m : HostMove) (s : State) : Outcome State Fault Refusal :=
  match m with
  | .reset => .next (applyReset s)
  | .writeWidth width => onlyInIdle (writeCfgWidth width) s
  | .writeEn en => onlyInIdle (writeCfgEn en) s
  | .loadBytes bytes => onlyInIdle (loadBytes bytes) s
  | .loadWords words => onlyInIdle (loadWords words) s
  | .start => .next (startRun s)

/-- What the host may read of a run's results: PROG, REF and OUT, only when PHASE = DONE (R258). -/
def hostObserve (s : State) : Option (List (Option DecodedInstruction) × List Nat × List EmitRecord) :=
  if s.phase = .done then some (s.prog, s.ref, s.out) else none

/-- What the host may read at any time: PHASE and ERR (R258, 10_state.md R33). -/
def hostStatus (s : State) : Phase × Err := (s.phase, s.err)

end Sys2Proof.Machine
end

