-- ==== Sys2Proof/Machine/Flags.lean ====
section
/-! DEFINITION. PDCORE has no condition codes and no instruction writes a flag (10_state.md R33, 43 R177). The flags of
this file are flag bits of the decoded word: the words a mnemonic prints for them. -/

namespace Sys2Proof.Machine

/-- The blocking word of `push` and `pull`, always printed (43_instruction_decoder.md R170, R171). -/
def blockText (block : Bool) : Text := if block then "block".toList else "noblock".toList

/-- The conditional word of `push`, printed only if the flag is set (R170). -/
def ifFullText (cflag : Bool) : Option Text := if cflag then some "iffull".toList else none

/-- The conditional word of `pull`, printed only if the flag is set (R171). -/
def ifEmptyText (cflag : Bool) : Option Text := if cflag then some "ifempty".toList else none

/-- `irq_mode(clr, wait)`: clear wins over wait (R173). -/
def irqMode (clr wait : Bool) : Text :=
  if clr then "clear".toList else if wait then "wait".toList else "nowait".toList

end Sys2Proof.Machine
end

