-- ==== Sys2Proof/Machine/ControlFlow.lean ====
section
/-! DEFINITION. What PDCORE outputs for `jmp`, `wait` and `irq` (43_instruction_decoder.md R166, R167, R174). The block
prints them; it does not follow, wait or raise (R180). -/

namespace Sys2Proof.Machine

open Host (Outcome)

/-- The mnemonic of `jmp`: the condition unless it is "always", then the address as a label reference (R166). -/
def jmpText (p : Params) (cond : BitVec 3) (addr : BitVec 5) : Text :=
  printTemplate p.sep p.templates.jmp [conditionText (p.tables.cond.entry cond), some (label addr.toNat)]

/-- `jmp` (R166): the target is set for every `jmp` word, and only here (R176). -/
def execJmp (tail : BitVec 5) (cond : BitVec 3) (addr : BitVec 5) (s : State) : Outcome State Fault Refusal :=
  storeRecord (jmpText s.params cond addr) (some addr.toNat) tail s

/-- The mnemonic of `wait` (R167). -/
def waitText (p : Params) (pol : BitVec 1) (src : BitVec 2) (index : BitVec 5) : Text :=
  printTemplate p.sep waitTemplate
    [some (fieldText pol), some (lookup (p.tables.waitSrc.entry src)), some (fieldText index)]

/-- `wait` (R167). -/
def execWait (tail : BitVec 5) (pol : BitVec 1) (src : BitVec 2) (index : BitVec 5) (s : State) :
    Outcome State Fault Refusal :=
  storeRecord (waitText s.params pol src index) none tail s

/-- The mnemonic of `irq`: mode, effective index, and the note every `irq` carries (R174). -/
def irqText (p : Params) (clr wait : Bool) (index : BitVec 5) : Text :=
  printTemplate p.sep p.templates.irq [some (irqMode clr wait), some (dec (effIndex index)), some p.irqNote]

/-- `irq` (R174). -/
def execIrq (tail : BitVec 5) (clr wait : Bool) (index : BitVec 5) (s : State) : Outcome State Fault Refusal :=
  storeRecord (irqText s.params clr wait index) none tail s

end Sys2Proof.Machine
end

