-- ==== Sys2Proof/Machine/DataMove.lean ====
section
/-! DEFINITION. What PDCORE outputs for `in`, `out`, `push`, `pull`, `mov` and `set` (43_instruction_decoder.md R168 to
R172, R175). The block prints them; it moves no data (R180). -/

namespace Sys2Proof.Machine

open Host (Outcome)

/-- The mnemonic of `in` (R168). -/
def inText (p : Params) (src : BitVec 3) (bitcount : BitVec 5) : Text :=
  printTemplate p.sep p.templates.inn [some (lookup (p.tables.inSrc.entry src)), some (bitcountText bitcount)]

/-- `in` (R168). -/
def execIn (tail : BitVec 5) (src : BitVec 3) (bitcount : BitVec 5) (s : State) : Outcome State Fault Refusal :=
  storeRecord (inText s.params src bitcount) none tail s

/-- The mnemonic of `out` (R169). -/
def outText (p : Params) (dst : BitVec 3) (bitcount : BitVec 5) : Text :=
  printTemplate p.sep p.templates.out [some (lookup (p.tables.outDst.entry dst)), some (bitcountText bitcount)]

/-- `out` (R169): no target, also for the destinations PC and EXEC (R176). -/
def execOut (tail : BitVec 5) (dst : BitVec 3) (bitcount : BitVec 5) (s : State) : Outcome State Fault Refusal :=
  storeRecord (outText s.params dst bitcount) none tail s

/-- The mnemonic of `push` (R170). -/
def pushText (p : Params) (cflag block : Bool) : Text :=
  printTemplate p.sep p.templates.push [ifFullText cflag, some (blockText block)]

/-- `push` (R170). -/
def execPush (tail : BitVec 5) (cflag block : Bool) (s : State) : Outcome State Fault Refusal :=
  storeRecord (pushText s.params cflag block) none tail s

/-- The mnemonic of `pull` (R171). -/
def pullText (p : Params) (cflag block : Bool) : Text :=
  printTemplate p.sep p.templates.pull [ifEmptyText cflag, some (blockText block)]

/-- `pull` (R171). -/
def execPull (tail : BitVec 5) (cflag block : Bool) (s : State) : Outcome State Fault Refusal :=
  storeRecord (pullText s.params cflag block) none tail s

/-- The mnemonic of `mov`: the operation symbol stands directly before the source (R172). -/
def movText (p : Params) (dst : BitVec 3) (op : BitVec 2) (src : BitVec 3) : Text :=
  printTemplate p.sep p.templates.mov
    [some (lookup (p.tables.movDst.entry dst)),
     some (lookup (p.tables.movOp.entry op) ++ lookup (p.tables.movSrc.entry src))]

/-- `mov` (R172): no target, also for the destinations PC and EXEC (R176). -/
def execMov (tail : BitVec 5) (dst : BitVec 3) (op : BitVec 2) (src : BitVec 3) (s : State) :
    Outcome State Fault Refusal :=
  storeRecord (movText s.params dst op src) none tail s

/-- The mnemonic of `set` (R175). -/
def setText (p : Params) (dst : BitVec 3) (data : BitVec 5) : Text :=
  printTemplate p.sep p.templates.set [some (lookup (p.tables.setDst.entry dst)), some (fieldText data)]

/-- `set` (R175). -/
def execSet (tail : BitVec 5) (dst : BitVec 3) (data : BitVec 5) (s : State) : Outcome State Fault Refusal :=
  storeRecord (setText s.params dst data) none tail s

end Sys2Proof.Machine
end

