-- ==== Sys2Proof/Machine/Dispatch.lean ====
section
/-! DEFINITION. One arm for each instruction, each a direct call of its meaning. -/

namespace Sys2Proof.Machine

open Host (Outcome)

def exec (i : Instr) (s : State) : Host.Outcome State Fault Refusal :=
  match i with
  | .jmp tail cond addr => Sys2Proof.Machine.execJmp tail cond addr s
  | .wait tail pol src index => Sys2Proof.Machine.execWait tail pol src index s
  | .in_ tail src bitcount => Sys2Proof.Machine.execIn tail src bitcount s
  | .out tail dst bitcount => Sys2Proof.Machine.execOut tail dst bitcount s
  | .push tail cflag block => Sys2Proof.Machine.execPush tail cflag block s
  | .pull tail cflag block => Sys2Proof.Machine.execPull tail cflag block s
  | .mov tail dst op src => Sys2Proof.Machine.execMov tail dst op src s
  | .irq tail clr wait index => Sys2Proof.Machine.execIrq tail clr wait index s
  | .set tail dst data => Sys2Proof.Machine.execSet tail dst data s

end Sys2Proof.Machine
end

