-- ==== Sys2Proof/Machine/Sequencer.lean ====
section
/-! DEFINITION. The sequencer's own steps (44_program_disassembler.md R201 to R204). -/

namespace Sys2Proof.Machine

open Host (Outcome)

/-- The instruction at SCAN, from the bytes of WMEM. -/
def fetch (s : State) : Except Fault Instr :=
  match decodeBytes (Memory.fetchBytes s.wmem s.scan) with
  | .ok (i, _) => .ok i
  | .error _ => .error (.absentWord s.scan)

/-- DECODE step: run the meaning of the word at SCAN, or go on to COLLECT (R201). -/
def decodeStep (s : State) : Outcome State Fault Refusal :=
  if s.scan < s.n then
    match fetch s with
    | .ok i => exec i s
    | .error f => .fault f
  else .next (enterPhase .collect s)

/-- COLLECT step: append the target at SCAN to REF if it is new, or go on to EMIT (R202). -/
def collectStep (s : State) : Outcome State Fault Refusal :=
  if s.scan < s.n then
    match currentRecord s with
    | some d => .next (putTarget d.target s)
    | none => .fault (.undecodedEntry s.scan)
  else .next (enterPhase .emit s)

/-- EMIT step: append the records of SCAN to OUT in one step, or end in DONE with SCAN unchanged (R203). -/
def emitStep (s : State) : Outcome State Fault Refusal :=
  if s.scan < s.n then
    match currentRecord s with
    | some d => .next (putEmission d s)
    | none => .fault (.undecodedEntry s.scan)
  else .next (endRun s)

/-- The block's own step. In IDLE and DONE no step rule is enabled and the state does not change (R204,
70_reset_and_hazards.md R252, R259, log entry 4). -/
def coreStep (s : State) : Outcome State Fault Refusal :=
  match s.phase with
  | .idle => .next s
  | .decode => decodeStep s
  | .collect => collectStep s
  | .emit => emitStep s
  | .done => .next s

end Sys2Proof.Machine
end

