-- ==== Sys2Proof/Machine/NextStep.lean ====
section
/-! DEFINITION. Who moves next: the host, where its next entry is a move, else the block. -/

namespace Sys2Proof.Machine

open Host (Outcome)

/-- One step: it uses up the first entry of the host's moves; an entry `none`, or no entry at all, leaves the step to
the block (log entry 3). -/
def nextStep (s : State) : Outcome State Fault Refusal :=
  match s.hostMoves with
  | [] => coreStep s
  | none :: rest => coreStep { s with hostMoves := rest }
  | some m :: rest => hostMove m { s with hostMoves := rest }

end Sys2Proof.Machine
end

