-- ==== Sys2Proof/Machine/Disassemble.lean ====
section
/-! DEFINITION. The pure functions of the spec, on words and lists and without a state: `decode`
(43_instruction_decoder.md R160), `disassemble` (44_program_disassembler.md R205) and the informative rendering
(R207). The machine's steps are stated to compute them. -/

namespace Sys2Proof.Machine

/-- The mnemonic of an instruction (43_instruction_decoder.md R161). -/
def mnemonicOf (p : Params) (i : Instr) : Text :=
  match i with
  | .jmp _ cond addr => jmpText p cond addr
  | .wait _ pol src index => waitText p pol src index
  | .in_ _ src bitcount => inText p src bitcount
  | .out _ dst bitcount => outText p dst bitcount
  | .push _ cflag block => pushText p cflag block
  | .pull _ cflag block => pullText p cflag block
  | .mov _ dst op src => movText p dst op src
  | .irq _ clr wait index => irqText p clr wait index
  | .set _ dst data => setText p dst data

/-- The target of an instruction: `some addr` for `jmp`, else `none` (R176). -/
def targetOf (i : Instr) : Option Nat :=
  match i with
  | .jmp _ _ addr => some addr.toNat
  | .wait _ _ _ _ => none
  | .in_ _ _ _ => none
  | .out _ _ _ => none
  | .push _ _ _ => none
  | .pull _ _ _ => none
  | .mov _ _ _ _ => none
  | .irq _ _ _ _ => none
  | .set _ _ _ => none

/-- The record of an instruction under a legal configuration (R160, R164). -/
def describe (p : Params) (c : SidesetConfig) (i : Instr) : DecodedInstruction :=
  ⟨mnemonicOf p i, targetOf i, ssd c i.tail⟩

/-- `decode(w, cfg)` (R160). -/
def decodeRecord (p : Params) (c : SidesetConfig) (w : Word) : DecodedInstruction := describe p c (decodeWord w)

/-- The Program of a word list, `P` of 44_program_disassembler.md R205. -/
def programOf (p : Params) (c : SidesetConfig) (ws : List Word) : List DecodedInstruction := ws.map (decodeRecord p c)

/-- `dedup_first`: keep the first occurrence of each value (R205). -/
def dedupFirst : List Nat → List Nat
  | [] => []
  | t :: ts => t :: (dedupFirst ts).filter (fun u => u != t)

/-- The reference list of a Program, `R` of R205. -/
def referencesOf (ds : List DecodedInstruction) : List Nat := dedupFirst (ds.filterMap DecodedInstruction.target)

/-- The emission stream of the records from address `a` on, given the reference list. -/
def emissionFrom (ref : List Nat) : Nat → List DecodedInstruction → List EmitRecord
  | _, [] => []
  | a, d :: ds => recordsOf ref a d ++ emissionFrom ref (a + 1) ds

/-- The emission stream of a Program, `O` of R205. -/
def emissionOf (ref : List Nat) (ds : List DecodedInstruction) : List EmitRecord := emissionFrom ref 0 ds

/-- `disassemble(cfg, W)`: the Program, the reference list, the emission stream (R205). -/
def disassemble (p : Params) (c : SidesetConfig) (ws : List Word) :
    List DecodedInstruction × List Nat × List EmitRecord :=
  (programOf p c ws, referencesOf (programOf p c ws), emissionOf (referencesOf (programOf p c ws)) (programOf p c ws))

/-- One record as a line of text, without the line terminator (R207, informative). -/
def renderRecord (r : EmitRecord) : Text :=
  match r with
  | .label a => label a ++ ":".toList
  | .instr _ m t => "\t".toList ++ m ++ "\t".toList ++ t

/-- The emission stream as lines, each ended by a newline (R207, informative, log entry 20). -/
def render (out : List EmitRecord) : Text := out.flatMap fun r => renderRecord r ++ "\n".toList

end Sys2Proof.Machine
end

