-- ==== Sys2Proof/Safety.lean ====
section
/-! DEFINITION. What counts as a good state and a safe step, in the terms the statements use. -/

namespace Sys2Proof.Machine

/-- The words WMEM holds, in address order (10_state.md R22). -/
def loadedWords (s : State) : List Word := wordsOfBytes (s.wmem.map Prod.snd)

/-- WMEM holds exactly N words: its byte addresses are 0 to 2N-1 (10_state.md R22, R54 of 20_memory.md). -/
def MemoryHoldsProgram (s : State) : Prop := s.wmem.map Prod.fst = List.range (2 * s.n)

/-- The configuration is written since reset and legal (70_reset_and_hazards.md R252). -/
def ConfigReady (s : State) : Prop := s.configWritten = true ∧ s.config.legal = true

/-- The Program the state's words decode to (44_program_disassembler.md R191). -/
def programFor (s : State) : List DecodedInstruction := programOf s.params s.config (loadedWords s)

/-- The reference list of that Program (R194). -/
def referencesFor (s : State) : List Nat := referencesOf (programFor s)

/-- In IDLE nothing was started: the counter is 0 and the outputs are empty (10_state.md R36, 60_exceptions.md
R222). -/
def IdleInv (s : State) : Prop := s.scan = 0 ∧ s.prog = [] ∧ s.ref = [] ∧ s.out = []

/-- In DECODE the entries below SCAN are decoded and the others are `none` (R201). -/
def DecodeInv (s : State) : Prop :=
  s.prog = ((programFor s).take s.scan).map some ++ List.replicate (s.n - s.scan) none ∧ s.ref = [] ∧ s.out = []

/-- In COLLECT all entries are decoded and REF holds the targets met below SCAN (R202). -/
def CollectInv (s : State) : Prop :=
  s.prog = (programFor s).map some ∧ s.ref = referencesOf ((programFor s).take s.scan) ∧ s.out = []

/-- In EMIT REF is complete and OUT holds the records of the addresses below SCAN (R203). -/
def EmitInv (s : State) : Prop :=
  s.prog = (programFor s).map some ∧ s.ref = referencesFor s ∧
    s.out = emissionOf (referencesFor s) ((programFor s).take s.scan)

/-- In DONE the three outputs are complete (70_reset_and_hazards.md R259). -/
def DoneInv (s : State) : Prop :=
  s.scan = s.n ∧ s.prog = (programFor s).map some ∧ s.ref = referencesFor s ∧
    s.out = emissionOf (referencesFor s) (programFor s)

/-- Outside IDLE a run was started: the configuration is ready and no shape error is held (R252). -/
def RunStarted (s : State) : Prop := ConfigReady s ∧ s.err = .none

/-- What the phase says of the outputs. -/
def PhaseInv (s : State) : Prop :=
  match s.phase with
  | .idle => IdleInv s
  | .decode => RunStarted s ∧ DecodeInv s
  | .collect => RunStarted s ∧ CollectInv s
  | .emit => RunStarted s ∧ EmitInv s
  | .done => RunStarted s ∧ DoneInv s

/-- The invariant of the machine: WMEM holds N words, SCAN does not pass N (10_state.md R24), and the outputs are what
the phase says. -/
def Inv (s : State) : Prop := MemoryHoldsProgram s ∧ s.scan ≤ s.n ∧ PhaseInv s

/-- REF is a duplicate-free list of addresses from 0 to 31 (10_state.md R30). -/
def RefWellFormed (ref : List Nat) : Prop := ref.Nodup ∧ ∀ t ∈ ref, t < 32

/-- The host's next entry writes the configuration or the program, which it may do in IDLE only (R254, R255). -/
def nextMoveWritesInput (s : State) : Bool :=
  match s.hostMoves with
  | some (.writeWidth _) :: _ => true
  | some (.writeEn _) :: _ => true
  | some (.loadBytes _) :: _ => true
  | some (.loadWords _) :: _ => true
  | _ => false

/-- The host's next entry is a reset. -/
def nextMoveIsReset (s : State) : Bool :=
  match s.hostMoves with
  | some .reset :: _ => true
  | _ => false

/-- From `s` to `t` the record `d` was stored at PROG[SCAN] and SCAN went on by one; every other entry of PROG and
every other piece of state is as before (44_program_disassembler.md R201, 43 R177). -/
def RecordedAt (s t : State) (d : DecodedInstruction) : Prop :=
  t.prog[s.scan]? = some (some d) ∧ t.scan = s.scan + 1 ∧ t.prog.length = s.prog.length ∧
    (∀ b, b ≠ s.scan → t.prog[b]? = s.prog[b]?) ∧ t = { s with prog := t.prog, scan := t.scan }

/-- The addresses that have a label record, in order. -/
def labelsIn (out : List EmitRecord) : List Nat :=
  out.filterMap fun r => match r with
    | .label a => some a
    | .instr _ _ _ => none

/-- The instruction records, in order: address, mnemonic, side-set text. -/
def instrsIn (out : List EmitRecord) : List (Nat × Text × Text) :=
  out.filterMap fun r => match r with
    | .label _ => none
    | .instr a m t => some (a, m, t)

/-- Every character is printable 7-bit ASCII, from the space to the tilde (00_scope.md R10). -/
def IsPrintableAscii (t : Text) : Prop := ∀ c ∈ t, 0x20 ≤ c.toNat ∧ c.toNat < 0x7F

end Sys2Proof.Machine
end

