-- ==== Sys2Proof/Certificates/Slice0/Obligations.lean ====
section
/-! DEFINITION. The statements for the provers. Each docstring names the rule of spec/ it formalises, and the log entry
or the spec's own decision where a clause rests on one. -/

open Sys2Proof Sys2Proof.Machine

/-! ## Encoding -/

/-- Decoding the bytes of an encoded instruction gives the instruction back and leaves the bytes after it, for every
instruction with every operand (30_encoding.md R70 to R79). The class numbers are the spec's decision D1 (log entry
10); the encoder writes unread bits 0 (log entry 16). -/
def Obligations.EncodedInstructionDecodesToItself : Prop :=
  ∀ (i : Instr) (rest : List Byte), decodeBytes (encodeBytes i ++ rest) = .ok (i, rest)

/-- Encoding a decoded word gives the word back in every bit some rule reads; the unread bits come back 0
(30_encoding.md R84; the 0 is the model's choice, log entry 16). -/
def Obligations.DecodedWordEncodesBackInReadBits : Prop :=
  ∀ w : Word, encode (decodeWord w) = w &&& careMask w

/-- Words of one class that differ in don't-care bits only decode to the same record: `w[4:0]` in class PUSH/PULL;
`w[7]` and, dropped after extraction, `w[4:3]` in class IRQ (30_encoding.md R84, D9). That they are ignored is log
entry 16. -/
def Obligations.DontCareBitsDoNotShow : Prop :=
  ∀ (p : Params) (c : SidesetConfig) (w v : Word),
    opcodeClass w = opcodeClass v →
    (∀ i < 16,
      ¬ (classOfNumber (opcodeClass w) = .pushPull ∧ i < 5) →
      ¬ (classOfNumber (opcodeClass w) = .irq ∧ (i = 7 ∨ i = 4 ∨ i = 3)) →
      bitAt w i = bitAt v i) →
    decodeRecord p c w = decodeRecord p c v

/-- Of the nine rows of the opcode map every word selects exactly one, the row of the instruction it decodes to
(30_encoding.md R82; the patterns rest on the class numbers, D1, log entry 10). -/
def Obligations.EachWordSelectsOneOpcodeRow : Prop :=
  ∀ w : Word, opcodeRows.filter (fun r => r.selects w) = [rowOf (decodeWord w)]

/-- Words written out from the encodings decode to the instructions they stand for (95_test_vectors.md, D1). The class
numbers are the spec's decision (log entry 10). -/
def Obligations.WrittenOutWordsDecodeRight : Prop :=
  decodeTableWord 16 0b0000000000100000 = some (.jmp 0 1 0) ∧
  decodeTableWord 16 0b0011111101111111 = some (.wait 31 0 3 31) ∧
  decodeTableWord 16 0b0100000011001000 = some (.in_ 0 6 8) ∧
  decodeTableWord 16 0b0110000010001000 = some (.out 0 4 8) ∧
  decodeTableWord 16 0b1000000001000000 = some (.push 0 true false) ∧
  decodeTableWord 16 0b1001111110100000 = some (.pull 31 false true) ∧
  decodeTableWord 16 0b1010000010110101 = some (.mov 0 5 2 5) ∧
  decodeTableWord 16 0b1100000010011000 = some (.irq 0 false false 24) ∧
  decodeTableWord 16 0b1110000010011111 = some (.set 0 4 31)

/-- Class, tail and operand fields are the shifted and masked word (41_field_decoder.md R120, R122 to R130). -/
def Obligations.FieldsAreShiftedAndMaskedWords : Prop :=
  ∀ w : Word,
    (opcodeClass w).toNat = (w.toNat >>> 13) &&& 0b111 ∧
    (tailOf w).toNat = (w.toNat >>> 8) &&& 0b11111 ∧
    (fJmp w).1.toNat = (w.toNat >>> 5) &&& 0b111 ∧ (fJmp w).2.toNat = w.toNat &&& 0b11111 ∧
    (fWait w).1.toNat = (w.toNat >>> 7) &&& 1 ∧ (fWait w).2.1.toNat = (w.toNat >>> 5) &&& 0b11 ∧
      (fWait w).2.2.toNat = w.toNat &&& 0b11111 ∧
    (fIn w).1.toNat = (w.toNat >>> 5) &&& 0b111 ∧ (fIn w).2.toNat = w.toNat &&& 0b11111 ∧
    (fOut w).1.toNat = (w.toNat >>> 5) &&& 0b111 ∧ (fOut w).2.toNat = w.toNat &&& 0b11111 ∧
    (fPushPull w).1.toNat = (w.toNat >>> 7) &&& 1 ∧ (fPushPull w).2.1.toNat = (w.toNat >>> 6) &&& 1 ∧
      (fPushPull w).2.2.toNat = (w.toNat >>> 5) &&& 1 ∧
    (fMov w).1.toNat = (w.toNat >>> 5) &&& 0b111 ∧ (fMov w).2.1.toNat = (w.toNat >>> 3) &&& 0b11 ∧
      (fMov w).2.2.toNat = w.toNat &&& 0b111 ∧
    (fIrq w).1.toNat = (w.toNat >>> 6) &&& 1 ∧ (fIrq w).2.1.toNat = (w.toNat >>> 5) &&& 1 ∧
      (fIrq w).2.2.toNat = w.toNat &&& 0b11111 ∧ effIndex (fIrq w).2.2 = w.toNat &&& 0b111 ∧
    (fSet w).1.toNat = (w.toNat >>> 5) &&& 0b111 ∧ (fSet w).2.toNat = w.toNat &&& 0b11111

/-! ## Texts and tables -/

/-- In the reset state the parameters have the spec's defaults, the tables value by value (40_opcode_tables.md R102 to
R109, 00_scope.md R7; most entries are the spec's general knowledge, log entries 8 and 9), and these are admissible
values. Admissible means 40_opcode_tables.md R112 of the tables (an entry without a text by log entry 19), ASCII texts
(log entry 17), and the model's own reading of 43_instruction_decoder.md R165 and 10_state.md R29 of the templates and
of the fixed set fragment (log entry 28); that the parameters stand in the state is log entry 27. -/
def Obligations.DefaultParametersHoldTheListedTexts : Prop :=
  values3.map State.reset.params.tables.cond.entry =
    ["", "!X", "X--", "!Y", "Y--", "X!=Y", "PIN", "!OSRE"].map (fun t => some t.toList) ∧
  values2.map State.reset.params.tables.waitSrc.entry =
    [some "GPIO".toList, some "PIN".toList, some "IRQ".toList, none] ∧
  values3.map State.reset.params.tables.inSrc.entry =
    [some "PINS".toList, some "X".toList, some "Y".toList, some "NULL".toList, none, none, some "ISR".toList,
      some "OSR".toList] ∧
  values3.map State.reset.params.tables.outDst.entry =
    ["PINS", "X", "Y", "NULL", "PINDIRS", "PC", "ISR", "EXEC"].map (fun t => some t.toList) ∧
  values3.map State.reset.params.tables.movDst.entry =
    [some "PINS".toList, some "X".toList, some "Y".toList, none, some "EXEC".toList, some "PC".toList,
      some "ISR".toList, some "OSR".toList] ∧
  values2.map State.reset.params.tables.movOp.entry = [some "".toList, some "!".toList, some "::".toList, none] ∧
  values3.map State.reset.params.tables.movSrc.entry =
    [some "PINS".toList, some "X".toList, some "Y".toList, some "NULL".toList, none, some "STATUS".toList,
      some "ISR".toList, some "OSR".toList] ∧
  values3.map State.reset.params.tables.setDst.entry =
    [some "PINS".toList, some "X".toList, some "Y".toList, none, some "PINDIRS".toList, none, none, none] ∧
  State.reset.params.sep = ",".toList ∧
  State.reset.params.irqNote = "; WARNING: irq decoding is unstable/unsupported".toList ∧
  State.reset.params.templates = defaultTemplates ∧ State.reset.params.admissible = true

/-- Whatever the parameters are within the source's constraints, a word of class MOV whose operation field is `0b11`
prints `RESERVED` in the place of the operation symbol, and a word of class IRQ carries the note as its last operand,
whatever its fields hold; neither has a target (40_opcode_tables.md R110, R112(c), 43_instruction_decoder.md R172,
R174). That nothing separates it from the source text is the spec's decision D6 (log entry 22). The form of a template
is log entry 28; the index by D8 is log entry 22. -/
def Obligations.ReservedMovOperationPrintsReservedForAllTables : Prop :=
  ∀ (p : Params) (c : SidesetConfig) (w : Word),
    (p.tables.admissible = true → classOfNumber (opcodeClass w) = .mov → slice w 3 2 = 3 →
      (decodeRecord p c w).mnemonic =
          printTemplate p.sep p.templates.mov
            [some (lookup (p.tables.movDst.entry (slice w 5 3))),
             some ("RESERVED".toList ++ lookup (p.tables.movSrc.entry (slice w 0 3)))] ∧
        (decodeRecord p c w).target = none) ∧
    (classOfNumber (opcodeClass w) = .irq →
      (decodeRecord p c w).mnemonic =
          printTemplate p.sep p.templates.irq
            [some (irqMode (bitAt w 6) (bitAt w 5)), some (dec ((slice w 0 5).toNat % 8)), some p.irqNote] ∧
        (decodeRecord p c w).target = none)

/-- `dec` is decimal: at least one digit, only digits, no leading zero but in `0` itself, and the digits read back as
the number (00_scope.md R11). The base is the spec's decision D4 (log entry 9). -/
def Obligations.DecimalTextReadsBack : Prop :=
  ∀ n : Nat,
    (dec n).foldl (fun v c => 10 * v + (c.toNat - '0'.toNat)) 0 = n ∧
    (∀ c ∈ dec n, '0' ≤ c ∧ c ≤ '9') ∧ ((dec n).head? = some '0' → dec n = ['0']) ∧ dec n ≠ []

/-- `hexl` is lower-case hexadecimal: at least one digit, only the digits `0` to `9` and `a` to `f`, no leading zero
but in `0` itself, and the digits read back as the number (00_scope.md R12). That labels print so is the spec's
decision D5 (log entry 9). -/
def Obligations.HexadecimalTextReadsBack : Prop :=
  ∀ n : Nat,
    (hexl n).foldl (fun v c => 16 * v + (if c ≤ '9' then c.toNat - '0'.toNat else c.toNat - 'a'.toNat + 10)) 0 = n ∧
    (∀ c ∈ hexl n, ('0' ≤ c ∧ c ≤ '9') ∨ ('a' ≤ c ∧ c ≤ 'f')) ∧ ((hexl n).head? = some '0' → hexl n = ['0']) ∧
    hexl n ≠ []

/-- With all admissible parameters every text the machine stores is 7-bit ASCII (00_scope.md R10), and a mnemonic is
never empty: it begins with the word of its operation (10_state.md R29). With the default parameters it is printable,
from the space `0x20` to `0x7E`, so without a tab or a newline, and a mnemonic neither begins nor ends with a space
(43_instruction_decoder.md R165(d)). The default tables and templates are log entries 8 and 9, the form of texts and
of templates log entries 17 and 28. -/
def Obligations.StoredTextsArePrintableAscii : Prop :=
  (∀ (p : Params) (c : SidesetConfig) (i : Instr), p.admissible = true →
    (describe p c i).mnemonic ≠ [] ∧
    (∃ operation rest, (describe p c i).mnemonic = operation ++ rest ∧
      operationWord operation = (rowOf i).mnemonic) ∧
    asciiText (describe p c i).mnemonic = true ∧ asciiText (describe p c i).sidesetText = true) ∧
  ∀ (c : SidesetConfig) (i : Instr),
    (describe defaultParams c i).mnemonic ≠ [] ∧
    (describe defaultParams c i).mnemonic.head? ≠ some ' ' ∧
    (describe defaultParams c i).mnemonic.getLast? ≠ some ' ' ∧
    IsPrintableAscii (describe defaultParams c i).mnemonic ∧ IsPrintableAscii (describe defaultParams c i).sidesetText

/-! ## The side-set/delay text -/

/-- Every bit of the tail goes to the enable flag, the side-set value or the delay, and to one of them only: the three
put together are the tail (42_sideset_delay.md R141 to R145, R149). At (0, true) it rests on the spec's decision D11
(log entry 15). -/
def Obligations.TailIsSplitWithoutLoss : Prop :=
  ∀ (c : SidesetConfig) (t : BitVec 5), c.legal = true →
    sidesetBits c + delayBits c = 5 ∧
    delayOf c t < 2 ^ delayBits c ∧ sidesetValue c t < 2 ^ c.width.toNat ∧
    t.toNat = (if enableFlag c t then 16 else 0) + sidesetValue c t * 2 ^ delayBits c + delayOf c t

/-- The whole function as the spec writes it in one piece (42_sideset_delay.md R148; the flag of the corner (0, true)
is the spec's decision D11). -/
def Obligations.SidesetTextFollowsTheAlgorithm : Prop :=
  ∀ (width : BitVec 3) (en : Bool) (t : BitVec 5), (SidesetConfig.mk width en).legal = true →
    ssd ⟨width, en⟩ t =
      (let sb := if width.toNat > 0 then width.toNat + (if en then 1 else 0) else 0
       let db := 5 - sb
       let hasFlag := en = true ∧ width.toNat > 0
       let flag := if hasFlag then t.toNat / 16 else 0
       let t' := if hasFlag then t.toNat % 16 else t.toNat
       let delay := t' % 2 ^ db
       let value := t' / 2 ^ db
       let enabled := if en then flag = 1 else value > 0
       List.intercalate " ".toList
         ((if enabled then ["side ".toList ++ dec value] else []) ++
          (if delay > 0 then ["[".toList ++ dec delay ++ "]".toList] else [])))

/-- With no bit left for the delay, under (5, false) and (4, true), no tail prints a delay: the text is empty or a
side part (42_sideset_delay.md R151). The case (4, true) is the spec's derivation. -/
def Obligations.NoDelayIsShownWithoutDelayBits : Prop :=
  ∀ (c : SidesetConfig) (t : BitVec 5), c = ⟨5, false⟩ ∨ c = ⟨4, true⟩ →
    delayBits c = 0 ∧ delayPart c t = none ∧
      (ssd c t = [] ∨ ssd c t = "side ".toList ++ dec (sidesetValue c t))

/-- The side-set text is a function of the tail and the configuration alone, the same for all nine instructions, and
mnemonic and target depend on neither (43_instruction_decoder.md R164). -/
def Obligations.SidesetTextAndMnemonicAreIndependent : Prop :=
  ∀ (p : Params) (c c' : SidesetConfig) (w v : Word),
    (tailOf w = tailOf v → (decodeRecord p c w).sidesetText = (decodeRecord p c v).sidesetText) ∧
    (decodeRecord p c w).sidesetText = ssd c (tailOf w) ∧
    (opcodeClass w = opcodeClass v → slice w 0 8 = slice v 0 8 →
      (decodeRecord p c w).mnemonic = (decodeRecord p c' v).mnemonic ∧
        (decodeRecord p c w).target = (decodeRecord p c' v).target)

/-! ## The nine instructions: what each stores, and that it completes -/

/-- `jmp` (43_instruction_decoder.md R166), for all parameters: the condition unless it is the "always" entry, then
the label of the address; the target is the address. With the default template the text is the rule's. The default
template is the spec's choice (D3, log entry 9), the form of a template log entry 28, that the parameters stand in the
state log entry 27. The label's name is D5, the one space where the condition is left out D27 (log entry 9), the form
of the "always" entry log entry 19. -/
def Obligations.JmpStoresConditionLabelAndTarget : Prop :=
  ∀ (s : State) (tail : BitVec 5) (cond : BitVec 3) (addr : BitVec 5),
    ConfigReady s → s.scan < s.prog.length →
    ∃ (t : State) (m : Text), exec (.jmp tail cond addr) s = .next t ∧
      RecordedAt s t ⟨m, some addr.toNat, ssd s.config tail⟩ ∧
      m = printTemplate s.params.sep s.params.templates.jmp
        [if s.params.tables.cond.entry cond = some [] then none else some (lookup (s.params.tables.cond.entry cond)),
         some ("label_0x".toList ++ hexl addr.toNat)] ∧
      (s.params.templates = defaultTemplates →
        m = "jmp ".toList ++
          ((if s.params.tables.cond.entry cond = some [] then []
            else lookup (s.params.tables.cond.entry cond) ++ " ".toList) ++
            ("label_0x".toList ++ hexl addr.toNat)))

/-- `wait` (R167), for all parameters: polarity, source and index, the numbers as they stand, in the template the
source fixes. That the polarity is printed as the number 0 or 1 is the spec's decision D23 (log entry 22), that the
parameters stand in the state log entry 27. Numbers are decimal by the spec's decision D4 (log entry 9). -/
def Obligations.WaitStoresPolaritySourceIndex : Prop :=
  ∀ (s : State) (tail : BitVec 5) (pol : BitVec 1) (src : BitVec 2) (index : BitVec 5),
    ConfigReady s → s.scan < s.prog.length →
    ∃ (t : State) (m : Text), exec (.wait tail pol src index) s = .next t ∧
      RecordedAt s t ⟨m, none, ssd s.config tail⟩ ∧
      m = printTemplate s.params.sep waitTemplate
        [some (dec pol.toNat), some (lookup (s.params.tables.waitSrc.entry src)), some (dec index.toNat)] ∧
      m = "wait ".toList ++ (dec pol.toNat ++ (" ".toList ++ (lookup (s.params.tables.waitSrc.entry src) ++
          (" ".toList ++ dec index.toNat))))

/-- `in` (R168), for all parameters: source and bit count, 0 printed as 32 (41_field_decoder.md R132). With the
default template the text is the rule's. The default template is the spec's choice (D3, log entry 9), the form of a
template log entry 28, that the parameters stand in the state log entry 27. Numbers are decimal by the spec's decision
D4 (log entry 9). -/
def Obligations.InStoresSourceAndBitCount : Prop :=
  ∀ (s : State) (tail : BitVec 5) (src : BitVec 3) (bitcount : BitVec 5),
    ConfigReady s → s.scan < s.prog.length →
    ∃ (t : State) (m : Text), exec (.in_ tail src bitcount) s = .next t ∧
      RecordedAt s t ⟨m, none, ssd s.config tail⟩ ∧
      m = printTemplate s.params.sep s.params.templates.inn
        [some (lookup (s.params.tables.inSrc.entry src)),
         some (if bitcount = 0 then "32".toList else dec bitcount.toNat)] ∧
      (s.params.templates = defaultTemplates →
        m = "in ".toList ++ (lookup (s.params.tables.inSrc.entry src) ++ (s.params.sep ++
          (if bitcount = 0 then "32".toList else dec bitcount.toNat))))

/-- `out` (R169), for all parameters: destination and bit count, 0 printed as 32; no target for any destination
(R176). With the default template the text is the rule's. The default template is the spec's choice (D3, log entry 9),
the form of a template log entry 28, that the parameters stand in the state log entry 27. Numbers are decimal by the
spec's decision D4 (log entry 9). -/
def Obligations.OutStoresDestinationAndBitCount : Prop :=
  ∀ (s : State) (tail : BitVec 5) (dst : BitVec 3) (bitcount : BitVec 5),
    ConfigReady s → s.scan < s.prog.length →
    ∃ (t : State) (m : Text), exec (.out tail dst bitcount) s = .next t ∧
      RecordedAt s t ⟨m, none, ssd s.config tail⟩ ∧
      m = printTemplate s.params.sep s.params.templates.out
        [some (lookup (s.params.tables.outDst.entry dst)),
         some (if bitcount = 0 then "32".toList else dec bitcount.toNat)] ∧
      (s.params.templates = defaultTemplates →
        m = "out ".toList ++ (lookup (s.params.tables.outDst.entry dst) ++ (s.params.sep ++
          (if bitcount = 0 then "32".toList else dec bitcount.toNat))))

/-- `push` (R170), for all parameters: `iffull` if the conditional flag is set, and always `block` or `noblock`. With
the default template these are the rule's four outputs. The default template is the spec's choice (D3, log entry 9),
the form of a template log entry 28, that the parameters stand in the state log entry 27. That push pairs with iffull,
and how the blocking bit reads, is the spec's decision D22 (log entry 22). -/
def Obligations.PushStoresItsFourForms : Prop :=
  ∀ (s : State) (tail : BitVec 5) (cflag block : Bool),
    ConfigReady s → s.scan < s.prog.length →
    ∃ (t : State) (m : Text), exec (.push tail cflag block) s = .next t ∧
      RecordedAt s t ⟨m, none, ssd s.config tail⟩ ∧
      m = printTemplate s.params.sep s.params.templates.push
        [if cflag then some "iffull".toList else none, some (if block then "block".toList else "noblock".toList)] ∧
      (s.params.templates = defaultTemplates →
        m = (match cflag, block with
          | false, false => "push noblock"
          | false, true => "push block"
          | true, false => "push iffull noblock"
          | true, true => "push iffull block").toList)

/-- `pull` (R171), for all parameters: `ifempty` if the conditional flag is set, and always `block` or `noblock`. With
the default template these are the rule's four outputs. The default template is the spec's choice (D3, log entry 9),
the form of a template log entry 28, that the parameters stand in the state log entry 27. That pull pairs with
ifempty, and how the blocking bit reads, is the spec's decision D22 (log entry 22). -/
def Obligations.PullStoresItsFourForms : Prop :=
  ∀ (s : State) (tail : BitVec 5) (cflag block : Bool),
    ConfigReady s → s.scan < s.prog.length →
    ∃ (t : State) (m : Text), exec (.pull tail cflag block) s = .next t ∧
      RecordedAt s t ⟨m, none, ssd s.config tail⟩ ∧
      m = printTemplate s.params.sep s.params.templates.pull
        [if cflag then some "ifempty".toList else none, some (if block then "block".toList else "noblock".toList)] ∧
      (s.params.templates = defaultTemplates →
        m = (match cflag, block with
          | false, false => "pull noblock"
          | false, true => "pull block"
          | true, false => "pull ifempty noblock"
          | true, true => "pull ifempty block").toList)

/-- `mov` (R172), for all parameters: destination, then the operation symbol directly before the source; no target for
any destination (R176). With the default template the text is the rule's. The default template is the spec's choice
(D3, log entry 9), the form of a template log entry 28, that the parameters stand in the state log entry 27. That
nothing stands between the operation symbol and the source is the spec's decision D6 (log entry 22). -/
def Obligations.MovStoresDestinationOperationSource : Prop :=
  ∀ (s : State) (tail : BitVec 5) (dst : BitVec 3) (op : BitVec 2) (src : BitVec 3),
    ConfigReady s → s.scan < s.prog.length →
    ∃ (t : State) (m : Text), exec (.mov tail dst op src) s = .next t ∧
      RecordedAt s t ⟨m, none, ssd s.config tail⟩ ∧
      m = printTemplate s.params.sep s.params.templates.mov
        [some (lookup (s.params.tables.movDst.entry dst)),
         some (lookup (s.params.tables.movOp.entry op) ++ lookup (s.params.tables.movSrc.entry src))] ∧
      (s.params.templates = defaultTemplates →
        m = "mov ".toList ++ (lookup (s.params.tables.movDst.entry dst) ++ (s.params.sep ++
          (lookup (s.params.tables.movOp.entry op) ++ lookup (s.params.tables.movSrc.entry src)))))

/-- `irq` (R173, R174), for all parameters: clear wins over wait, only the low three index bits are printed, the note
is always there. With the default template the text is the rule's, with the note at its end. The default template is
the spec's choice (D3, log entry 9), the form of a template log entry 28, that the parameters stand in the state log
entry 27. That only the low three index bits are printed is the spec's decision D8 (log entry 22), the place of the
note D7 (log entry 9). Numbers are decimal by the spec's decision D4 (log entry 9). -/
def Obligations.IrqStoresModeIndexAndNote : Prop :=
  ∀ (s : State) (tail : BitVec 5) (clr wait : Bool) (index : BitVec 5),
    ConfigReady s → s.scan < s.prog.length →
    ∃ (t : State) (m : Text), exec (.irq tail clr wait index) s = .next t ∧
      RecordedAt s t ⟨m, none, ssd s.config tail⟩ ∧
      m = printTemplate s.params.sep s.params.templates.irq
        [some (if clr then "clear".toList else if wait then "wait".toList else "nowait".toList),
         some (dec (index.toNat % 8)), some s.params.irqNote] ∧
      (s.params.templates = defaultTemplates →
        m = "irq ".toList ++ ((if clr then "clear ".toList else if wait then "wait ".toList else "nowait ".toList) ++
          (dec (index.toNat % 8) ++ (" ".toList ++ s.params.irqNote))))

/-- `set` (R175), for all parameters: destination and data, 0 printed as 0. With all admissible parameters the
destination text `PINS` and the data 0 print the fragment `set PINS,0` (R165). With the default template the text is
the rule's. The default template is the spec's choice (D3, log entry 9), the form of a template log entry 28, that the
parameters stand in the state log entry 27. Numbers are decimal by the spec's decision D4 (log entry 9). That the
fragment is the whole mnemonic is log entry 28. -/
def Obligations.SetStoresDestinationAndData : Prop :=
  ∀ (s : State) (tail : BitVec 5) (dst : BitVec 3) (data : BitVec 5),
    ConfigReady s → s.scan < s.prog.length →
    ∃ (t : State) (m : Text), exec (.set tail dst data) s = .next t ∧
      RecordedAt s t ⟨m, none, ssd s.config tail⟩ ∧
      m = printTemplate s.params.sep s.params.templates.set
        [some (lookup (s.params.tables.setDst.entry dst)), some (dec data.toNat)] ∧
      (s.params.admissible = true → lookup (s.params.tables.setDst.entry dst) = "PINS".toList → data = 0 →
        m = "set PINS,0".toList) ∧
      (s.params.templates = defaultTemplates →
        m = "set ".toList ++ (lookup (s.params.tables.setDst.entry dst) ++ (s.params.sep ++ dec data.toNat)))

/-- The frame of all nine instructions: PROG below and above SCAN, and every other element of the state, each byte of
word memory among it, is as before; SCAN goes on by one and never to a jump target (43_instruction_decoder.md R177,
R180, 10_state.md R24). Phases and steps are the spec's own framing (D14). -/
def Obligations.InstructionsChangeOnlyTheRecordAndScan : Prop :=
  ∀ (i : Instr) (s t : State), exec i s = .next t →
    t.scan = s.scan + 1 ∧ t.prog.length = s.prog.length ∧
    (∀ b, b ≠ s.scan → t.prog[b]? = s.prog[b]?) ∧
    (∀ a, Memory.readByte t.wmem a = Memory.readByte s.wmem a) ∧ t.n = s.n ∧
    t.ref = s.ref ∧ t.out = s.out ∧ t.phase = s.phase ∧ t.err = s.err ∧
    t.cfgWidth = s.cfgWidth ∧ t.cfgEn = s.cfgEn ∧ t.cfgWidthWritten = s.cfgWidthWritten ∧
    t.cfgEnWritten = s.cfgEnWritten ∧ t.params = s.params ∧ t.hostMoves = s.hostMoves

/-- An instruction stops only where the configuration must not be read (10_state.md R36) or has no side-set text
(42_sideset_delay.md R155), for every instruction and operand, and never with a fault (log entry 13). -/
def Obligations.InstructionsStopOnlyWithoutConfiguration : Prop :=
  ∀ (i : Instr) (s : State),
    (s.configWritten = false → exec i s = .refused .unwrittenConfiguration) ∧
    (s.configWritten = true → s.config.legal = false → exec i s = .refused .illegalConfiguration) ∧
    (s.configWritten = true → s.config.legal = true → ∃ t, exec i s = .next t)

/-- The record of an instruction depends on the instruction and the configuration only (and on the block's constants),
never on its address, on another word or on what was decoded before (43_instruction_decoder.md R178). The constants
are compared because they stand in the state (log entry 27). -/
def Obligations.RecordsDoNotDependOnTheirAddress : Prop :=
  ∀ (i : Instr) (s s' t t' : State),
    s.config = s'.config → s.params = s'.params → s.scan < s.prog.length → s'.scan < s'.prog.length →
    exec i s = .next t → exec i s' = .next t' →
    t.prog[s.scan]? = t'.prog[s'.scan]?

/-! ## The steps of a run -/

/-- A step runs the decoded instruction: in DECODE below N, where the bytes at SCAN decode to `i`, the step is `exec`
of `i`, with the host's entry for this step used up (44_program_disassembler.md R201). Phases and steps are the spec's
own framing (D14). That a step uses up one host entry is log entry 3. -/
def Obligations.StepRunsTheDecodedInstruction : Prop :=
  ∀ (s : State) (i : Instr) (rest : List Byte),
    s.phase = .decode → s.scan < s.n → decodeBytes (Memory.fetchBytes s.wmem s.scan) = .ok (i, rest) →
    (s.hostMoves = [] → step s = exec i s) ∧
    (∀ moves, s.hostMoves = none :: moves → step s = exec i { s with hostMoves := moves })

/-- The DECODE step (44_program_disassembler.md R201): below N it stores the record of WMEM[SCAN] and goes on by one;
at N it enters COLLECT at address 0. Phases and steps are the spec's own framing (D14). -/
def Obligations.DecodeStepStoresTheRecordOfTheWord : Prop :=
  ∀ s : State, s.phase = .decode → s.hostMoves = [] → ConfigReady s →
    (∀ w, s.scan < s.n → s.scan < s.prog.length → Memory.readWord s.wmem s.scan = some w →
      ∃ t, step s = .next t ∧ RecordedAt s t (decodeRecord s.params s.config w)) ∧
    (s.scan = s.n → step s = .next { s with phase := .collect, scan := 0 })

/-- The COLLECT step (44_program_disassembler.md R202): a target that is not in REF yet is appended, any other entry
leaves REF as it is; at N it enters EMIT at address 0. Phases and steps are the spec's own framing (D14). -/
def Obligations.CollectStepAppendsNewTargets : Prop :=
  ∀ s : State, s.phase = .collect → s.hostMoves = [] →
    (∀ d, s.scan < s.n → s.prog[s.scan]? = some (some d) →
      (∀ a, d.target = some a → a ∉ s.ref → step s = .next { s with ref := s.ref ++ [a], scan := s.scan + 1 }) ∧
      (∀ a, d.target = some a → a ∈ s.ref → step s = .next { s with scan := s.scan + 1 }) ∧
      (d.target = none → step s = .next { s with scan := s.scan + 1 })) ∧
    (s.scan = s.n → step s = .next { s with phase := .emit, scan := 0 })

/-- The EMIT step (44_program_disassembler.md R203): the label record, if SCAN is in REF, and the instruction record
are appended in one step; at N the phase becomes DONE and SCAN stays. Phases and steps are the spec's own framing
(D14). -/
def Obligations.EmitStepAppendsLabelAndInstruction : Prop :=
  ∀ s : State, s.phase = .emit → s.hostMoves = [] →
    (∀ d, s.scan < s.n → s.prog[s.scan]? = some (some d) →
      (s.scan ∈ s.ref →
        step s = .next { s with out := s.out ++ [.label s.scan, .instr s.scan d.mnemonic d.sidesetText],
                                scan := s.scan + 1 }) ∧
      (s.scan ∉ s.ref →
        step s = .next { s with out := s.out ++ [.instr s.scan d.mnemonic d.sidesetText], scan := s.scan + 1 })) ∧
    (s.scan = s.n → step s = .next { s with phase := .done })

/-- In IDLE and in DONE, with no host move, nothing changes (44_program_disassembler.md R204, 70 R259: no step rule is
enabled there; that the model answers the same state is its choice, log entry 4). -/
def Obligations.IdleAndDoneDoNotChange : Prop :=
  ∀ s : State, s.phase = .idle ∨ s.phase = .done → s.hostMoves = [] → step s = .next s

/-- The only phase changes are those of 10_state.md R25: a start from IDLE under the start's precondition, the three
changes at SCAN = N, and reset. Phases and steps are the spec's own framing (D14). That a host move is a step is log
entry 3. -/
def Obligations.PhasesChangeOnlyInOrder : Prop :=
  ∀ s t : State, s.scan ≤ s.n → step s = .next t → t.phase ≠ s.phase →
    (nextMoveIsReset s = true ∧ t.phase = .idle) ∨
    (s.phase = .idle ∧ t.phase = .decode ∧ ConfigReady s ∧ s.err = .none ∧
      ∃ rest, s.hostMoves = some .start :: rest) ∨
    (s.phase = .decode ∧ t.phase = .collect ∧ s.scan = s.n) ∨
    (s.phase = .collect ∧ t.phase = .emit ∧ s.scan = s.n) ∨
    (s.phase = .emit ∧ t.phase = .done ∧ s.scan = s.n)

/-- While a run is on, only a reset changes the configuration, N or a word (70_reset_and_hazards.md R254, R255,
20_memory.md R60); and no step at all, the host's moves and reset among them, changes the block's constants
(10_state.md R34). It rests on the refusal of host writes outside IDLE (log entry 6). That a host move is a step is
log entry 3. That the constants stand in the state is log entry 27. -/
def Obligations.ConfigurationAndProgramAreFixedDuringARun : Prop :=
  ∀ s t : State, step s = .next t →
    t.params = s.params ∧
    (s.phase ≠ .idle → nextMoveIsReset s = false →
      t.cfgWidth = s.cfgWidth ∧ t.cfgEn = s.cfgEn ∧ t.cfgWidthWritten = s.cfgWidthWritten ∧
      t.cfgEnWritten = s.cfgEnWritten ∧ t.n = s.n ∧
      ∀ a, Memory.readByte t.wmem a = Memory.readByte s.wmem a)

/-- PROG is write-once, REF and OUT grow at the end only, until a reset (20_memory.md R55). Phases and steps are the
spec's own framing (D14). That a host move is a step is log entry 3. -/
def Obligations.OutputsAreWriteOnceOrAppendOnly : Prop :=
  ∀ s t : State, Inv s → step s = .next t → nextMoveIsReset s = false →
    (∀ (a : Nat) (d : DecodedInstruction), s.prog[a]? = some (some d) → t.prog[a]? = some (some d)) ∧ s.ref <+: t.ref ∧ s.out <+: t.out

/-- COLLECT and EMIT do not read word memory: with other contents the step is the same (20_memory.md R53). Phases and
steps are the spec's own framing (D14). -/
def Obligations.CollectAndEmitDoNotReadWordMemory : Prop :=
  ∀ (s t : State) (m : List Host.Cell),
    s.phase = .collect ∨ s.phase = .emit → s.hostMoves = [] → step s = .next t →
    step { s with wmem := m } = .next { t with wmem := m }

/-! ## The invariant and whole runs -/

/-- The reset state meets the invariant (10_state.md R36). The reset is the spec's own decision (D15). -/
def Obligations.ResetMeetsTheInvariant : Prop := Inv State.reset

/-- Every step, of the block or of the host, keeps the invariant: WMEM holds N words, SCAN stays within N, and PROG,
REF and OUT are what the phase says (10_state.md R24, R25, 20_memory.md R58, 44_program_disassembler.md R201 to R203).
Phases and steps are the spec's own framing (D14). That a host move is a step is log entry 3, the step in IDLE and
DONE log entry 4. -/
def Obligations.EveryStepKeepsTheInvariant : Prop :=
  ∀ s t : State, Inv s → step s = .next t → Inv t

/-- In a state that meets the invariant no step stops, but for a host that writes the configuration or the program
outside IDLE (43_instruction_decoder.md R162, 60_exceptions.md R221, 70_reset_and_hazards.md R257). That such a host
stops is the model's choice (log entry 6). So is the next state in IDLE and DONE, where the spec has no step
(44_program_disassembler.md R204, 70_reset_and_hazards.md R259): the same state without a host move (log entry 4), the
request used up after a start that is not enabled (log entry 5); one host entry a step is log entry 3. -/
def Obligations.NoStepStopsInAGoodState : Prop :=
  ∀ s : State, Inv s → (nextMoveWritesInput s = true → s.phase = .idle) → ∃ t, step s = .next t

/-- REF stays a duplicate-free list of addresses below 32 (10_state.md R30), and so has at most 32 elements. The bound
is the spec's derivation. -/
def Obligations.ReferencesStayDistinctAndBelow32 : Prop :=
  ∀ s : State, Inv s → RefWellFormed s.ref ∧ s.ref.length ≤ 32

/-- For all parameters, from reset, with a legal configuration written, an even number of bytes loaded and a start, 3
(N + 1) steps of the block lead to DONE with the three outputs of `disassemble` on the loaded words
(44_program_disassembler.md R204, R205). Phases and steps are the spec's own framing (D14). The host's four moves are
single steps, and a program comes to run by them (log entries 3 and 7); the parameters stand in the state (log entry
27). -/
def Obligations.RunComputesTheDisassembly : Prop :=
  ∀ (p : Params) (width : BitVec 3) (en : Bool) (bytes : List Byte),
    (SidesetConfig.mk width en).legal = true → bytes.length % 2 = 0 →
    ∃ t : State, Host.Core.run core (4 + 3 * (bytes.length / 2 + 1))
        { State.reset with
          params := p
          hostMoves := [some (.writeWidth width), some (.writeEn en), some (.loadBytes bytes), some .start] } =
          .next t ∧
      t.phase = .done ∧ t.scan = bytes.length / 2 ∧ t.err = .none ∧
      t.prog = (disassemble p ⟨width, en⟩ (wordsOfBytes bytes)).1.map some ∧
      t.ref = (disassemble p ⟨width, en⟩ (wordsOfBytes bytes)).2.1 ∧
      t.out = (disassemble p ⟨width, en⟩ (wordsOfBytes bytes)).2.2

/-- A run that is left alone takes exactly 3 (N + 1) steps to DONE and is not in DONE before
(44_program_disassembler.md R204). Phases and steps are the spec's own framing (D14). -/
def Obligations.RunTakesThreeStepsPerWordAndThreeMore : Prop :=
  ∀ s : State, Inv s → s.phase = .decode → s.scan = 0 → s.hostMoves = [] →
    (∀ k < 3 * (s.n + 1), ∃ t : State, Host.Core.run core k s = .next t ∧ t.phase ≠ .done) ∧
    ∃ t : State, Host.Core.run core (3 * (s.n + 1)) s = .next t ∧ t.phase = .done

/-- In DONE the host reads exactly the three outputs of `disassemble` on the loaded words, in any other phase it may
read none of them (70_reset_and_hazards.md R258, 44_program_disassembler.md R190, R205). Phases and steps are the
spec's own framing (D14). What the host reads is a function, not a step (log entry 26). -/
def Obligations.TheHostObservesTheDisassembly : Prop :=
  ∀ s : State, Inv s →
    (s.phase = .done →
      hostObserve s =
        some ((disassemble s.params s.config (loadedWords s)).1.map some,
          (disassemble s.params s.config (loadedWords s)).2.1, (disassemble s.params s.config (loadedWords s)).2.2)) ∧
    (s.phase ≠ .done → hostObserve s = none)

/-! ## The function `disassemble` -/

/-- The reference set is the set of the address fields of all `jmp` words, wherever they stand
(44_program_disassembler.md R193). -/
def Obligations.ReferencesAreTheJumpAddresses : Prop :=
  ∀ (p : Params) (c : SidesetConfig) (ws : List Word) (a : Nat),
    (a ∈ (disassemble p c ws).2.1 ↔ ∃ d ∈ (disassemble p c ws).1, d.target = some a) ∧
    (a ∈ (disassemble p c ws).2.1 ↔
      ∃ w ∈ ws, classOfNumber (opcodeClass w) = .jmp ∧ (slice w 0 5).toNat = a)

/-- REF in order of first occurrence is what collecting one target after the other gives (44_program_disassembler.md
R194; the order is the spec's decision D16). -/
def Obligations.CollectingKeepsFirstOccurrences : Prop :=
  ∀ ts : List Nat, ts.foldl addRef [] = dedupFirst ts ∧ (dedupFirst ts).Nodup

/-- Exactly the addresses in REF below N receive a label, each one, in address order; none from 32 on
(44_program_disassembler.md R196, R195, R200). That none stands at or above 32 is the spec's derivation. -/
def Obligations.LabelsAreTheReferencedAddresses : Prop :=
  ∀ (p : Params) (c : SidesetConfig) (ws : List Word),
    labelsIn (disassemble p c ws).2.2 =
        (List.range ws.length).filter (fun a => decide (a ∈ (disassemble p c ws).2.1)) ∧
    ∀ a ∈ labelsIn (disassemble p c ws).2.2, a < 32

/-- OUT is, address by address in ascending order, the label record if the address is in REF and then always the
instruction record; so it holds exactly N instruction records in address order, as many label records as REF has
addresses below N, and a label record stands directly before the instruction record of its address
(44_program_disassembler.md R197). -/
def Obligations.InstructionsAreEmittedInOrderAfterTheirLabels : Prop :=
  ∀ (p : Params) (c : SidesetConfig) (ws : List Word),
    (disassemble p c ws).2.2 =
        (disassemble p c ws).1.zipIdx.flatMap (fun e =>
          (if e.2 ∈ (disassemble p c ws).2.1 then [EmitRecord.label e.2] else []) ++
            [EmitRecord.instr e.2 e.1.mnemonic e.1.sidesetText]) ∧
    instrsIn (disassemble p c ws).2.2 =
        (disassemble p c ws).1.zipIdx.map (fun e => (e.2, e.1.mnemonic, e.1.sidesetText)) ∧
    (labelsIn (disassemble p c ws).2.2).length =
      ((disassemble p c ws).2.1.filter (fun a => decide (a < ws.length))).length ∧
    ∀ a, EmitRecord.label a ∈ (disassemble p c ws).2.2 →
      ∃ before after m t,
        (disassemble p c ws).2.2 = before ++ (.label a :: .instr a m t :: after)

/-- The counts of a finished run, and its empty outputs for the empty program (44_program_disassembler.md R206). The
counts are the spec's derivation. -/
def Obligations.OutputCountsOfARun : Prop :=
  ∀ (p : Params) (c : SidesetConfig) (ws : List Word),
    (disassemble p c ws).1.length = ws.length ∧
    (instrsIn (disassemble p c ws).2.2).length = ws.length ∧
    (labelsIn (disassemble p c ws).2.2).length =
      ((disassemble p c ws).2.1.filter (fun a => decide (a < ws.length))).length ∧
    ws.length ≤ (disassemble p c ws).2.2.length ∧
    (disassemble p c ws).2.2.length ≤ ws.length + min ws.length 32 ∧
    (ws = [] → disassemble p c ws = ([], [], []))

/-- A `jmp` to an address beyond the end is legal, for all parameters: its target is in REF and no label record is
emitted for it; with the default template its mnemonic still ends with the label's name (44_program_disassembler.md
R198). The label's name is the spec's decision D5. The default template is log entry 9. -/
def Obligations.JumpBeyondTheEndGetsNoLabel : Prop :=
  ∀ (p : Params) (c : SidesetConfig) (ws : List Word) (w : Word),
    w ∈ ws → classOfNumber (opcodeClass w) = .jmp → ws.length ≤ (slice w 0 5).toNat →
    (slice w 0 5).toNat ∈ (disassemble p c ws).2.1 ∧
    EmitRecord.label (slice w 0 5).toNat ∉ (disassemble p c ws).2.2 ∧
    (p.templates = defaultTemplates → label (slice w 0 5).toNat <:+ (decodeRecord p c w).mnemonic)

/-! ## The host, the exception, reset -/

/-- An odd number of bytes raises E_SHAPE and loads nothing (60_exceptions.md R222, 20_memory.md R52). The storage in
ERR is the spec's decision D17; that a load after a load keeps the earlier words is log entry 14. That the host's
entry is used up is log entry 3. -/
def Obligations.OddInputRaisesShapeErrorAndLoadsNothing : Prop :=
  ∀ (s : State) (bytes : List Byte) (rest : List (Option HostMove)),
    s.phase = .idle → s.hostMoves = some (.loadBytes bytes) :: rest → bytes.length % 2 = 1 →
    step s = .next { s with err := .shape, hostMoves := rest }

/-- After E_SHAPE nothing but a reset leads on: however often the host configures, loads or asks for a start, the
block stays in IDLE with ERR set and its outputs as they are (60_exceptions.md R222, R229). That the host may ask
again is log entries 5 and 14. That IDLE without a host move answers the same state is log entry 4, that a step uses
up one host entry log entry 3. -/
def Obligations.ShapeErrorHoldsUntilReset : Prop :=
  ∀ (k : Nat) (s : State), s.phase = .idle → s.err = .shape → some HostMove.reset ∉ s.hostMoves →
    ∃ t : State, Host.Core.run core k s = .next t ∧
      t.phase = .idle ∧ t.err = .shape ∧ t.scan = s.scan ∧ t.prog = s.prog ∧ t.ref = s.ref ∧ t.out = s.out

/-- ERR changes by an odd load and by reset only (60_exceptions.md R220, R222). The storage in ERR is the spec's
decision D17. That a host move is a step is log entry 3. -/
def Obligations.OnlyOddLoadsAndResetChangeErr : Prop :=
  ∀ s t : State, step s = .next t → t.err ≠ s.err →
    (nextMoveIsReset s = true ∧ t.err = .none) ∨
    (t.err = .shape ∧ s.phase = .idle ∧
      ∃ bytes rest, s.hostMoves = some (.loadBytes bytes) :: rest ∧ bytes.length % 2 = 1)

/-- An even number of bytes is loaded as big-endian pairs, N words and no more (20_memory.md R51). That it holds in
every IDLE state, so that a second load replaces the first and a load after E_SHAPE keeps ERR, is log entry 14; that
words from N on read as none, log entry 11; that the host's entry is used up, log entry 3. -/
def Obligations.EvenInputLoadsBigEndianWords : Prop :=
  ∀ (s : State) (bytes : List Byte) (rest : List (Option HostMove)),
    s.phase = .idle → s.hostMoves = some (.loadBytes bytes) :: rest → bytes.length % 2 = 0 →
    ∃ t, step s = .next t ∧ t = { s with n := t.n, wmem := t.wmem, hostMoves := rest } ∧
      t.n = bytes.length / 2 ∧
      (∀ (i : Nat) (hi lo : Byte), bytes[2 * i]? = some hi → bytes[2 * i + 1]? = some lo →
        ∃ w, Memory.readWord t.wmem i = some w ∧ w.toNat = (hi.toNat <<< 8) ||| lo.toNat) ∧
      (∀ i, t.n ≤ i → Memory.readWord t.wmem i = none)

/-- Writing the configuration and loading the program in any order gives the same state (70_reset_and_hazards.md
R251), whether the program comes through the byte loader, with an even or an odd number of bytes, or as words. Each
write is one step of the host (log entries 3 and 25). What a load does where another went before is log entry 14. -/
def Obligations.ConfigureAndLoadInAnyOrder : Prop :=
  ∀ (s : State) (width : BitVec 3) (en : Bool) (moves : List HostMove) (rest : List (Option HostMove)),
    s.phase = .idle →
    (∀ bytes, bytes.length % 2 = 0 → moves.Perm [.writeWidth width, .writeEn en, .loadBytes bytes] →
      Host.Core.run core 3 { s with hostMoves := moves.map some ++ rest } =
        .next ({ s with
          cfgWidth := width
          cfgWidthWritten := true
          cfgEn := en
          cfgEnWritten := true
          n := bytes.length / 2
          wmem := Memory.ofBytes bytes
          hostMoves := rest } : State)) ∧
    (∀ bytes, bytes.length % 2 = 1 → moves.Perm [.writeWidth width, .writeEn en, .loadBytes bytes] →
      Host.Core.run core 3 { s with hostMoves := moves.map some ++ rest } =
        .next ({ s with
          cfgWidth := width
          cfgWidthWritten := true
          cfgEn := en
          cfgEnWritten := true
          err := .shape
          hostMoves := rest } : State)) ∧
    (∀ ws, moves.Perm [.writeWidth width, .writeEn en, .loadWords ws] →
      Host.Core.run core 3 { s with hostMoves := moves.map some ++ rest } =
        .next ({ s with
          cfgWidth := width
          cfgWidthWritten := true
          cfgEn := en
          cfgEnWritten := true
          n := ws.length
          wmem := Memory.ofBytes (bytesOfWords ws)
          hostMoves := rest } : State))

/-- A start request (70_reset_and_hazards.md R252, 60_exceptions.md R232): with the precondition met the run begins at
address 0 with N empty entries and empty outputs; without it the block stays as it is (that the request is used up is
log entry 5). That a request is one step of the host is log entry 3. -/
def Obligations.StartBeginsARunExactlyWhenEnabled : Prop :=
  ∀ (s : State) (rest : List (Option HostMove)), s.hostMoves = some .start :: rest →
    (s.phase = .idle → s.err = .none → ConfigReady s →
      step s = .next { s with phase := .decode, scan := 0, prog := List.replicate s.n none, ref := [], out := [],
                              hostMoves := rest }) ∧
    (s.phase ≠ .idle ∨ s.err ≠ .none ∨ ¬ ConfigReady s → step s = .next { s with hostMoves := rest })

/-- Writing the configuration or the program outside IDLE is no move the host has: the model refuses it by name
(70_reset_and_hazards.md R254, R255; log entry 6). That the host's moves stand in the state is log entry 3. -/
def Obligations.InputWritesOutsideIdleAreRefused : Prop :=
  ∀ s : State, nextMoveWritesInput s = true → s.phase ≠ .idle → step s = .refused .hostMoveOutsideIdle

/-- Reset from any state (70_reset_and_hazards.md R250, 10_state.md R36): every element the spec gives a reset value
has it, both configuration registers count as unwritten, and no start is possible; the block's constants stay. The
reset is the spec's own decision (D15). That the host's further moves stay is log entry 24. That the constants stand
in the state is log entry 27. -/
def Obligations.ResetFromAnyState : Prop :=
  ∀ (s : State) (rest : List (Option HostMove)), s.hostMoves = some .reset :: rest →
    ∃ t, step s = .next t ∧ t.phase = .idle ∧ t.scan = 0 ∧ t.err = .none ∧ t.n = 0 ∧ t.wmem = [] ∧ t.prog = [] ∧
      t.ref = [] ∧ t.out = [] ∧ t.cfgWidthWritten = false ∧ t.cfgEnWritten = false ∧ startEnabled t = false ∧
      t.params = s.params ∧ t.hostMoves = rest

/-- The state after reset holds the values the spec gives (10_state.md R36); nothing is said of CFG_WIDTH and CFG_EN,
which are unspecified. The reset is the spec's own decision (D15). -/
def Obligations.ResetStateHoldsTheSpecsValues : Prop :=
  State.reset.phase = .idle ∧ State.reset.scan = 0 ∧ State.reset.err = .none ∧ State.reset.n = 0 ∧
    State.reset.wmem = [] ∧ State.reset.prog = [] ∧ State.reset.ref = [] ∧ State.reset.out = [] ∧
    State.reset.cfgWidthWritten = false ∧ State.reset.cfgEnWritten = false

/-- The value of a configuration register that was not written since reset is not read: with another value the step
gives the same state but for that register, until the register is written or reset (10_state.md R36). So no run
depends on the value the model names for it (log entry 1). The two written bits are log entry 2, the host's moves as
steps log entry 3, the step without a host move log entry 4, a request that is used up log entry 5. -/
def Obligations.UnwrittenConfigurationIsNotRead : Prop :=
  ∀ (s t : State), s.phase = .idle → step s = .next t →
    (∀ w : BitVec 3, s.cfgWidthWritten = false →
      step { s with cfgWidth := w } = .next t ∨
        (t.cfgWidthWritten = false ∧ t.phase = .idle ∧
          step { s with cfgWidth := w } = .next { t with cfgWidth := w })) ∧
    (∀ e : Bool, s.cfgEnWritten = false →
      step { s with cfgEn := e } = .next t ∨
        (t.cfgEnWritten = false ∧ t.phase = .idle ∧
          step { s with cfgEn := e } = .next { t with cfgEn := e }))

/-! ## Word memory -/

/-- The state the host builds to run one word as the next instruction does run it: the next step stores that word's
record at SCAN, from any state (the model's placing operation, log entry 7; 44_program_disassembler.md R201). -/
def Obligations.APlacedWordIsDecodedNext : Prop :=
  ∀ (s : State) (w : Nat), w < 65536 →
    ∃ t, step (s.withFetchWord 16 w) = .next t ∧ t.scan = s.scan + 1 ∧
      t.prog[s.scan]? =
        some (some (decodeRecord s.params (s.withFetchWord 16 w).config (BitVec.ofNat 16 w)))
end

