-- ==== Sys2Proof/Laws/Decode.lean ====
section
/-! SUPPORT. Laws of the field decoder and the encoder: what each field of an assembled word is. -/

namespace Sys2Proof

/-- The bits of an assembled word. -/
theorem assemble_getLsbD (c : OpClass) (t : BitVec 5) (o : BitVec 8) (i : Nat) :
    (assemble c t o).getLsbD i =
      if i < 8 then o.getLsbD i else if i < 13 then t.getLsbD (i - 8) else (numberOfClass c).getLsbD (i - 13) := by
  have h : (assemble c t o).getLsbD i = ((numberOfClass c ++ t) ++ o : BitVec (3 + 5 + 8)).getLsbD i := rfl
  rw [h, BitVec.getLsbD_append, BitVec.getLsbD_append]
  by_cases h8 : i < 8
  · simp [h8]
  · by_cases h13 : i < 13
    · simp [h8, h13, show i - 8 < 5 by omega]
    · simp [h8, h13, show ¬ i - 8 < 5 by omega, show i - 8 - 5 = i - 13 by omega]

@[simp] theorem opcodeClass_assemble (c : OpClass) (t : BitVec 5) (o : BitVec 8) :
    opcodeClass (assemble c t o) = numberOfClass c := by
  apply BitVec.eq_of_getLsbD_eq
  intro i hi
  simp [opcodeClass, slice, assemble_getLsbD, hi, show ¬ 13 + i < 8 by omega]

@[simp] theorem tailOf_assemble (c : OpClass) (t : BitVec 5) (o : BitVec 8) : tailOf (assemble c t o) = t := by
  apply BitVec.eq_of_getLsbD_eq
  intro i hi
  simp [tailOf, slice, assemble_getLsbD, hi, show 8 + i < 13 by omega]

/-- A field of the operand byte. -/
theorem slice_assemble (c : OpClass) (t : BitVec 5) (o : BitVec 8) {lo len : Nat} (h : lo + len ≤ 8) :
    slice (assemble c t o) lo len = o.extractLsb' lo len := by
  apply BitVec.eq_of_getLsbD_eq
  intro i hi
  simp [slice, assemble_getLsbD, hi, show lo + i < 8 by omega]

/-- A bit of the operand byte. -/
theorem bitAt_assemble (c : OpClass) (t : BitVec 5) (o : BitVec 8) {i : Nat} (h : i < 8) :
    bitAt (assemble c t o) i = o.getLsbD i := by
  simp [bitAt, assemble_getLsbD, h]

/-- A class is the class of its number (30_encoding.md R71). -/
@[simp] theorem classOfNumber_numberOfClass (c : OpClass) : classOfNumber (numberOfClass c) = c := by
  cases c <;> rfl

/-- A class number is the number of its class. -/
@[simp] theorem numberOfClass_classOfNumber (c : BitVec 3) : numberOfClass (classOfNumber c) = c := by
  revert c; decide

/-- The bits of a byte pair's word. -/
theorem ofBytes_getLsbD (hi lo : Byte) (i : Nat) :
    (Word.ofBytes hi lo).getLsbD i = if i < 8 then lo.getLsbD i else hi.getLsbD (i - 8) := by
  have h : (Word.ofBytes hi lo).getLsbD i = (hi ++ lo : BitVec (8 + 8)).getLsbD i := rfl
  rw [h, BitVec.getLsbD_append]

/-- A word is the word of its two bytes. -/
@[simp] theorem ofBytes_hiByte_loByte (w : Word) : Word.ofBytes w.hiByte w.loByte = w := by
  apply BitVec.eq_of_getLsbD_eq
  intro i hi
  rw [ofBytes_getLsbD]
  by_cases h8 : i < 8
  · simp [h8, Word.loByte]
  · simp [h8, Word.hiByte, show i - 8 < 8 by omega, show 8 + (i - 8) = i by omega]

/-- The words of the bytes of a word list are the list. -/
@[simp] theorem wordsOfBytes_bytesOfWords (ws : List Word) : wordsOfBytes (bytesOfWords ws) = ws := by
  induction ws with
  | nil => rfl
  | cons w rest ih =>
    have h : bytesOfWords (w :: rest) = w.hiByte :: w.loByte :: bytesOfWords rest := rfl
    rw [h, wordsOfBytes, ih, ofBytes_hiByte_loByte]

/-- Two bytes for each word. -/
@[simp] theorem bytesOfWords_length (ws : List Word) : (bytesOfWords ws).length = 2 * ws.length := by
  induction ws with
  | nil => rfl
  | cons w rest ih =>
    have h : bytesOfWords (w :: rest) = w.hiByte :: w.loByte :: bytesOfWords rest := rfl
    rw [h, List.length_cons, List.length_cons, ih, List.length_cons]
    omega

end Sys2Proof
end

