-- ==== Sys2Proof/Laws/Memory.lean ====
section
/-! SUPPORT. Laws of word memory: reads after writes, and that every operation keeps the canonical form. -/

namespace Sys2Proof.Machine

/-- Every address of the memory is above `a`. -/
def Memory.above (a : Nat) (m : Memory) : Prop := ∀ c ∈ m, a < c.1

theorem Memory.wf_cons (a : Nat) (b : Byte) (m : Memory) :
    Memory.wf ((a, b) :: m) = true ↔ m.above a ∧ m.wf = true := by
  induction m generalizing a b with
  | nil => simp [Memory.wf, Memory.above]
  | cons c rest ih =>
    obtain ⟨k, x⟩ := c
    have h := ih k x
    constructor
    · intro hw
      simp only [Memory.wf, Bool.and_eq_true, decide_eq_true_eq] at hw
      refine ⟨?_, hw.2⟩
      intro c hc
      rcases List.mem_cons.1 hc with rfl | hc
      · exact hw.1
      · exact lt_trans hw.1 ((h.1 hw.2).1 c hc)
    · rintro ⟨ha, hw⟩
      simp only [Memory.wf, Bool.and_eq_true, decide_eq_true_eq]
      exact ⟨ha (k, x) (by simp), hw⟩

theorem Memory.above_writeByte {k a : Nat} {b : Byte} {m : Memory} (hm : m.above k) (ha : k < a) :
    (m.writeByte a b).above k := by
  induction m with
  | nil => simpa [Memory.writeByte, Memory.above] using ha
  | cons c rest ih =>
    obtain ⟨j, y⟩ := c
    have hj : k < j := hm (j, y) (by simp)
    have hr : Memory.above k rest := fun c hc => hm c (by simp [hc])
    unfold Memory.writeByte
    split
    · intro c hc
      rcases List.mem_cons.1 hc with rfl | hc
      · exact ha
      · exact hm c hc
    · split
      · intro c hc
        rcases List.mem_cons.1 hc with rfl | hc
        · exact ha
        · exact hr c hc
      · intro c hc
        rcases List.mem_cons.1 hc with rfl | hc
        · exact hj
        · exact ih hr c hc

/-- A write keeps the canonical form. -/
theorem Memory.wf_writeByte {m : Memory} (a : Nat) (b : Byte) (hm : m.wf = true) : (m.writeByte a b).wf = true := by
  induction m with
  | nil => rfl
  | cons c rest ih =>
    obtain ⟨k, x⟩ := c
    obtain ⟨hab, hw⟩ := (Memory.wf_cons k x rest).1 hm
    unfold Memory.writeByte
    split
    · rename_i h
      refine (Memory.wf_cons a b _).2 ⟨?_, hm⟩
      intro c hc
      rcases List.mem_cons.1 hc with rfl | hc
      · exact h
      · exact lt_trans h (hab c hc)
    · split
      · rename_i h
        subst h
        exact (Memory.wf_cons a b rest).2 ⟨hab, hw⟩
      · rename_i h h'
        exact (Memory.wf_cons k x _).2 ⟨Memory.above_writeByte hab (by omega), ih hw⟩

/-- Writing a word keeps the canonical form. -/
theorem Memory.wf_writeWord {m : Memory} (a : Nat) (w : Word) (hm : m.wf = true) : (m.writeWord a w).wf = true :=
  Memory.wf_writeByte _ _ (Memory.wf_writeByte _ _ hm)

theorem Memory.above_ofBytesFrom (bytes : List Byte) {k a : Nat} (h : k < a) :
    (Memory.ofBytesFrom a bytes).above k := by
  induction bytes generalizing a with
  | nil => simp [Memory.ofBytesFrom, Memory.above]
  | cons b rest ih =>
    intro c hc
    rcases List.mem_cons.1 hc with rfl | hc
    · exact h
    · exact ih (Nat.lt_succ_of_lt h) c hc

theorem Memory.wf_ofBytesFrom (bytes : List Byte) (a : Nat) : (Memory.ofBytesFrom a bytes).wf = true := by
  induction bytes generalizing a with
  | nil => rfl
  | cons b rest ih =>
    exact (Memory.wf_cons a b _).2 ⟨Memory.above_ofBytesFrom rest (Nat.lt_succ_self a), ih (a + 1)⟩

/-- A load makes the canonical form. -/
theorem Memory.wf_ofBytes (bytes : List Byte) : (Memory.ofBytes bytes).wf = true := Memory.wf_ofBytesFrom bytes 0

/-- The addresses of consecutive bytes. -/
theorem Memory.ofBytesFrom_addresses (bytes : List Byte) (a : Nat) :
    (Memory.ofBytesFrom a bytes).map Prod.fst = List.range' a bytes.length := by
  induction bytes generalizing a with
  | nil => rfl
  | cons b rest ih => simp [Memory.ofBytesFrom, ih, List.range'_succ]

/-- The bytes of consecutive bytes. -/
@[simp] theorem Memory.ofBytesFrom_bytes (bytes : List Byte) (a : Nat) :
    (Memory.ofBytesFrom a bytes).map Prod.snd = bytes := by
  induction bytes generalizing a with
  | nil => rfl
  | cons b rest ih => simp [Memory.ofBytesFrom, ih]

/-- Reading from consecutive bytes. -/
theorem Memory.readByte_ofBytesFrom (bytes : List Byte) (a i : Nat) :
    (Memory.ofBytesFrom a bytes).readByte (a + i) = bytes[i]? := by
  induction bytes generalizing a i with
  | nil => rfl
  | cons b rest ih =>
    cases i with
    | zero => simp [Memory.ofBytesFrom, Memory.readByte]
    | succ i =>
      have h := ih (a + 1) i
      rw [show a + 1 + i = a + (i + 1) by omega] at h
      simp [Memory.ofBytesFrom, Memory.readByte, h]

/-- Reading a loaded byte. -/
theorem Memory.readByte_ofBytes (bytes : List Byte) (i : Nat) : (Memory.ofBytes bytes).readByte i = bytes[i]? := by
  simpa [Memory.ofBytes] using Memory.readByte_ofBytesFrom bytes 0 i

end Sys2Proof.Machine
end

