-- ==== Sys2Proof/Laws/State.lean ====
section
/-! SUPPORT. One lemma for each field under each named update of the state. -/

namespace Sys2Proof.Machine

variable (s : State)

/-! ## Storing a record changes PROG and SCAN only -/

@[simp] theorem putRecord_cfgWidth (d : DecodedInstruction) : (putRecord d s).cfgWidth = s.cfgWidth := rfl
@[simp] theorem putRecord_cfgEn (d : DecodedInstruction) : (putRecord d s).cfgEn = s.cfgEn := rfl
@[simp] theorem putRecord_cfgWidthWritten (d : DecodedInstruction) : (putRecord d s).cfgWidthWritten = s.cfgWidthWritten := rfl
@[simp] theorem putRecord_cfgEnWritten (d : DecodedInstruction) : (putRecord d s).cfgEnWritten = s.cfgEnWritten := rfl
@[simp] theorem putRecord_n (d : DecodedInstruction) : (putRecord d s).n = s.n := rfl
@[simp] theorem putRecord_wmem (d : DecodedInstruction) : (putRecord d s).wmem = s.wmem := rfl
@[simp] theorem putRecord_prog (d : DecodedInstruction) : (putRecord d s).prog = s.prog.set s.scan (some d) := rfl
@[simp] theorem putRecord_ref (d : DecodedInstruction) : (putRecord d s).ref = s.ref := rfl
@[simp] theorem putRecord_out (d : DecodedInstruction) : (putRecord d s).out = s.out := rfl
@[simp] theorem putRecord_scan (d : DecodedInstruction) : (putRecord d s).scan = s.scan + 1 := rfl
@[simp] theorem putRecord_phase (d : DecodedInstruction) : (putRecord d s).phase = s.phase := rfl
@[simp] theorem putRecord_err (d : DecodedInstruction) : (putRecord d s).err = s.err := rfl
@[simp] theorem putRecord_params (d : DecodedInstruction) : (putRecord d s).params = s.params := rfl
@[simp] theorem putRecord_hostMoves (d : DecodedInstruction) : (putRecord d s).hostMoves = s.hostMoves := rfl

/-! ## Collecting a target changes REF and SCAN only -/

@[simp] theorem putTarget_cfgWidth (t : Option Nat) : (putTarget t s).cfgWidth = s.cfgWidth := rfl
@[simp] theorem putTarget_cfgEn (t : Option Nat) : (putTarget t s).cfgEn = s.cfgEn := rfl
@[simp] theorem putTarget_cfgWidthWritten (t : Option Nat) : (putTarget t s).cfgWidthWritten = s.cfgWidthWritten := rfl
@[simp] theorem putTarget_cfgEnWritten (t : Option Nat) : (putTarget t s).cfgEnWritten = s.cfgEnWritten := rfl
@[simp] theorem putTarget_n (t : Option Nat) : (putTarget t s).n = s.n := rfl
@[simp] theorem putTarget_wmem (t : Option Nat) : (putTarget t s).wmem = s.wmem := rfl
@[simp] theorem putTarget_prog (t : Option Nat) : (putTarget t s).prog = s.prog := rfl
@[simp] theorem putTarget_ref (t : Option Nat) : (putTarget t s).ref = collectTarget s.ref t := rfl
@[simp] theorem putTarget_out (t : Option Nat) : (putTarget t s).out = s.out := rfl
@[simp] theorem putTarget_scan (t : Option Nat) : (putTarget t s).scan = s.scan + 1 := rfl
@[simp] theorem putTarget_phase (t : Option Nat) : (putTarget t s).phase = s.phase := rfl
@[simp] theorem putTarget_err (t : Option Nat) : (putTarget t s).err = s.err := rfl
@[simp] theorem putTarget_params (t : Option Nat) : (putTarget t s).params = s.params := rfl
@[simp] theorem putTarget_hostMoves (t : Option Nat) : (putTarget t s).hostMoves = s.hostMoves := rfl

/-! ## Emitting an address changes OUT and SCAN only -/

@[simp] theorem putEmission_cfgWidth (d : DecodedInstruction) : (putEmission d s).cfgWidth = s.cfgWidth := rfl
@[simp] theorem putEmission_cfgEn (d : DecodedInstruction) : (putEmission d s).cfgEn = s.cfgEn := rfl
@[simp] theorem putEmission_cfgWidthWritten (d : DecodedInstruction) : (putEmission d s).cfgWidthWritten = s.cfgWidthWritten := rfl
@[simp] theorem putEmission_cfgEnWritten (d : DecodedInstruction) : (putEmission d s).cfgEnWritten = s.cfgEnWritten := rfl
@[simp] theorem putEmission_n (d : DecodedInstruction) : (putEmission d s).n = s.n := rfl
@[simp] theorem putEmission_wmem (d : DecodedInstruction) : (putEmission d s).wmem = s.wmem := rfl
@[simp] theorem putEmission_prog (d : DecodedInstruction) : (putEmission d s).prog = s.prog := rfl
@[simp] theorem putEmission_ref (d : DecodedInstruction) : (putEmission d s).ref = s.ref := rfl
@[simp] theorem putEmission_out (d : DecodedInstruction) : (putEmission d s).out = s.out ++ recordsOf s.ref s.scan d := rfl
@[simp] theorem putEmission_scan (d : DecodedInstruction) : (putEmission d s).scan = s.scan + 1 := rfl
@[simp] theorem putEmission_phase (d : DecodedInstruction) : (putEmission d s).phase = s.phase := rfl
@[simp] theorem putEmission_err (d : DecodedInstruction) : (putEmission d s).err = s.err := rfl
@[simp] theorem putEmission_params (d : DecodedInstruction) : (putEmission d s).params = s.params := rfl
@[simp] theorem putEmission_hostMoves (d : DecodedInstruction) : (putEmission d s).hostMoves = s.hostMoves := rfl

/-! ## Entering a phase changes PHASE and SCAN only -/

@[simp] theorem enterPhase_cfgWidth (p : Phase) : (enterPhase p s).cfgWidth = s.cfgWidth := rfl
@[simp] theorem enterPhase_cfgEn (p : Phase) : (enterPhase p s).cfgEn = s.cfgEn := rfl
@[simp] theorem enterPhase_cfgWidthWritten (p : Phase) : (enterPhase p s).cfgWidthWritten = s.cfgWidthWritten := rfl
@[simp] theorem enterPhase_cfgEnWritten (p : Phase) : (enterPhase p s).cfgEnWritten = s.cfgEnWritten := rfl
@[simp] theorem enterPhase_n (p : Phase) : (enterPhase p s).n = s.n := rfl
@[simp] theorem enterPhase_wmem (p : Phase) : (enterPhase p s).wmem = s.wmem := rfl
@[simp] theorem enterPhase_prog (p : Phase) : (enterPhase p s).prog = s.prog := rfl
@[simp] theorem enterPhase_ref (p : Phase) : (enterPhase p s).ref = s.ref := rfl
@[simp] theorem enterPhase_out (p : Phase) : (enterPhase p s).out = s.out := rfl
@[simp] theorem enterPhase_scan (p : Phase) : (enterPhase p s).scan = 0 := rfl
@[simp] theorem enterPhase_phase (p : Phase) : (enterPhase p s).phase = p := rfl
@[simp] theorem enterPhase_err (p : Phase) : (enterPhase p s).err = s.err := rfl
@[simp] theorem enterPhase_params (p : Phase) : (enterPhase p s).params = s.params := rfl
@[simp] theorem enterPhase_hostMoves (p : Phase) : (enterPhase p s).hostMoves = s.hostMoves := rfl

/-! ## Ending a run changes PHASE only -/

@[simp] theorem endRun_cfgWidth : (endRun s).cfgWidth = s.cfgWidth := rfl
@[simp] theorem endRun_cfgEn : (endRun s).cfgEn = s.cfgEn := rfl
@[simp] theorem endRun_cfgWidthWritten : (endRun s).cfgWidthWritten = s.cfgWidthWritten := rfl
@[simp] theorem endRun_cfgEnWritten : (endRun s).cfgEnWritten = s.cfgEnWritten := rfl
@[simp] theorem endRun_n : (endRun s).n = s.n := rfl
@[simp] theorem endRun_wmem : (endRun s).wmem = s.wmem := rfl
@[simp] theorem endRun_prog : (endRun s).prog = s.prog := rfl
@[simp] theorem endRun_ref : (endRun s).ref = s.ref := rfl
@[simp] theorem endRun_out : (endRun s).out = s.out := rfl
@[simp] theorem endRun_scan : (endRun s).scan = s.scan := rfl
@[simp] theorem endRun_phase : (endRun s).phase = .done := rfl
@[simp] theorem endRun_err : (endRun s).err = s.err := rfl
@[simp] theorem endRun_params : (endRun s).params = s.params := rfl
@[simp] theorem endRun_hostMoves : (endRun s).hostMoves = s.hostMoves := rfl

/-! ## Raising E_SHAPE changes ERR only -/

@[simp] theorem raiseShape_cfgWidth : (raiseShape s).cfgWidth = s.cfgWidth := rfl
@[simp] theorem raiseShape_cfgEn : (raiseShape s).cfgEn = s.cfgEn := rfl
@[simp] theorem raiseShape_cfgWidthWritten : (raiseShape s).cfgWidthWritten = s.cfgWidthWritten := rfl
@[simp] theorem raiseShape_cfgEnWritten : (raiseShape s).cfgEnWritten = s.cfgEnWritten := rfl
@[simp] theorem raiseShape_n : (raiseShape s).n = s.n := rfl
@[simp] theorem raiseShape_wmem : (raiseShape s).wmem = s.wmem := rfl
@[simp] theorem raiseShape_prog : (raiseShape s).prog = s.prog := rfl
@[simp] theorem raiseShape_ref : (raiseShape s).ref = s.ref := rfl
@[simp] theorem raiseShape_out : (raiseShape s).out = s.out := rfl
@[simp] theorem raiseShape_scan : (raiseShape s).scan = s.scan := rfl
@[simp] theorem raiseShape_phase : (raiseShape s).phase = s.phase := rfl
@[simp] theorem raiseShape_err : (raiseShape s).err = .shape := rfl
@[simp] theorem raiseShape_params : (raiseShape s).params = s.params := rfl
@[simp] theorem raiseShape_hostMoves : (raiseShape s).hostMoves = s.hostMoves := rfl

/-! ## Reset keeps the block's constants and the host's further moves only -/

@[simp] theorem applyReset_cfgWidth : (applyReset s).cfgWidth = State.reset.cfgWidth := rfl
@[simp] theorem applyReset_cfgEn : (applyReset s).cfgEn = State.reset.cfgEn := rfl
@[simp] theorem applyReset_cfgWidthWritten : (applyReset s).cfgWidthWritten = false := rfl
@[simp] theorem applyReset_cfgEnWritten : (applyReset s).cfgEnWritten = false := rfl
@[simp] theorem applyReset_n : (applyReset s).n = 0 := rfl
@[simp] theorem applyReset_wmem : (applyReset s).wmem = [] := rfl
@[simp] theorem applyReset_prog : (applyReset s).prog = [] := rfl
@[simp] theorem applyReset_ref : (applyReset s).ref = [] := rfl
@[simp] theorem applyReset_out : (applyReset s).out = [] := rfl
@[simp] theorem applyReset_scan : (applyReset s).scan = 0 := rfl
@[simp] theorem applyReset_phase : (applyReset s).phase = .idle := rfl
@[simp] theorem applyReset_err : (applyReset s).err = .none := rfl
@[simp] theorem applyReset_params : (applyReset s).params = s.params := rfl
@[simp] theorem applyReset_hostMoves : (applyReset s).hostMoves = s.hostMoves := rfl

/-! ## Writing CFG_WIDTH -/

@[simp] theorem writeCfgWidth_cfgWidth (w : BitVec 3) : (writeCfgWidth w s).cfgWidth = w := rfl
@[simp] theorem writeCfgWidth_cfgEn (w : BitVec 3) : (writeCfgWidth w s).cfgEn = s.cfgEn := rfl
@[simp] theorem writeCfgWidth_cfgWidthWritten (w : BitVec 3) : (writeCfgWidth w s).cfgWidthWritten = true := rfl
@[simp] theorem writeCfgWidth_cfgEnWritten (w : BitVec 3) : (writeCfgWidth w s).cfgEnWritten = s.cfgEnWritten := rfl
@[simp] theorem writeCfgWidth_n (w : BitVec 3) : (writeCfgWidth w s).n = s.n := rfl
@[simp] theorem writeCfgWidth_wmem (w : BitVec 3) : (writeCfgWidth w s).wmem = s.wmem := rfl
@[simp] theorem writeCfgWidth_prog (w : BitVec 3) : (writeCfgWidth w s).prog = s.prog := rfl
@[simp] theorem writeCfgWidth_ref (w : BitVec 3) : (writeCfgWidth w s).ref = s.ref := rfl
@[simp] theorem writeCfgWidth_out (w : BitVec 3) : (writeCfgWidth w s).out = s.out := rfl
@[simp] theorem writeCfgWidth_scan (w : BitVec 3) : (writeCfgWidth w s).scan = s.scan := rfl
@[simp] theorem writeCfgWidth_phase (w : BitVec 3) : (writeCfgWidth w s).phase = s.phase := rfl
@[simp] theorem writeCfgWidth_err (w : BitVec 3) : (writeCfgWidth w s).err = s.err := rfl
@[simp] theorem writeCfgWidth_params (w : BitVec 3) : (writeCfgWidth w s).params = s.params := rfl
@[simp] theorem writeCfgWidth_hostMoves (w : BitVec 3) : (writeCfgWidth w s).hostMoves = s.hostMoves := rfl

/-! ## Writing CFG_EN -/

@[simp] theorem writeCfgEn_cfgWidth (e : Bool) : (writeCfgEn e s).cfgWidth = s.cfgWidth := rfl
@[simp] theorem writeCfgEn_cfgEn (e : Bool) : (writeCfgEn e s).cfgEn = e := rfl
@[simp] theorem writeCfgEn_cfgWidthWritten (e : Bool) : (writeCfgEn e s).cfgWidthWritten = s.cfgWidthWritten := rfl
@[simp] theorem writeCfgEn_cfgEnWritten (e : Bool) : (writeCfgEn e s).cfgEnWritten = true := rfl
@[simp] theorem writeCfgEn_n (e : Bool) : (writeCfgEn e s).n = s.n := rfl
@[simp] theorem writeCfgEn_wmem (e : Bool) : (writeCfgEn e s).wmem = s.wmem := rfl
@[simp] theorem writeCfgEn_prog (e : Bool) : (writeCfgEn e s).prog = s.prog := rfl
@[simp] theorem writeCfgEn_ref (e : Bool) : (writeCfgEn e s).ref = s.ref := rfl
@[simp] theorem writeCfgEn_out (e : Bool) : (writeCfgEn e s).out = s.out := rfl
@[simp] theorem writeCfgEn_scan (e : Bool) : (writeCfgEn e s).scan = s.scan := rfl
@[simp] theorem writeCfgEn_phase (e : Bool) : (writeCfgEn e s).phase = s.phase := rfl
@[simp] theorem writeCfgEn_err (e : Bool) : (writeCfgEn e s).err = s.err := rfl
@[simp] theorem writeCfgEn_params (e : Bool) : (writeCfgEn e s).params = s.params := rfl
@[simp] theorem writeCfgEn_hostMoves (e : Bool) : (writeCfgEn e s).hostMoves = s.hostMoves := rfl

/-! ## Loading words changes N and WMEM only -/

@[simp] theorem loadWords_cfgWidth (ws : List Word) : (loadWords ws s).cfgWidth = s.cfgWidth := rfl
@[simp] theorem loadWords_cfgEn (ws : List Word) : (loadWords ws s).cfgEn = s.cfgEn := rfl
@[simp] theorem loadWords_cfgWidthWritten (ws : List Word) : (loadWords ws s).cfgWidthWritten = s.cfgWidthWritten := rfl
@[simp] theorem loadWords_cfgEnWritten (ws : List Word) : (loadWords ws s).cfgEnWritten = s.cfgEnWritten := rfl
@[simp] theorem loadWords_n (ws : List Word) : (loadWords ws s).n = ws.length := rfl
@[simp] theorem loadWords_wmem (ws : List Word) : (loadWords ws s).wmem = Memory.ofBytes (bytesOfWords ws) := rfl
@[simp] theorem loadWords_prog (ws : List Word) : (loadWords ws s).prog = s.prog := rfl
@[simp] theorem loadWords_ref (ws : List Word) : (loadWords ws s).ref = s.ref := rfl
@[simp] theorem loadWords_out (ws : List Word) : (loadWords ws s).out = s.out := rfl
@[simp] theorem loadWords_scan (ws : List Word) : (loadWords ws s).scan = s.scan := rfl
@[simp] theorem loadWords_phase (ws : List Word) : (loadWords ws s).phase = s.phase := rfl
@[simp] theorem loadWords_err (ws : List Word) : (loadWords ws s).err = s.err := rfl
@[simp] theorem loadWords_params (ws : List Word) : (loadWords ws s).params = s.params := rfl
@[simp] theorem loadWords_hostMoves (ws : List Word) : (loadWords ws s).hostMoves = s.hostMoves := rfl

/-! ## Beginning a run -/

@[simp] theorem beginRun_cfgWidth : (beginRun s).cfgWidth = s.cfgWidth := rfl
@[simp] theorem beginRun_cfgEn : (beginRun s).cfgEn = s.cfgEn := rfl
@[simp] theorem beginRun_cfgWidthWritten : (beginRun s).cfgWidthWritten = s.cfgWidthWritten := rfl
@[simp] theorem beginRun_cfgEnWritten : (beginRun s).cfgEnWritten = s.cfgEnWritten := rfl
@[simp] theorem beginRun_n : (beginRun s).n = s.n := rfl
@[simp] theorem beginRun_wmem : (beginRun s).wmem = s.wmem := rfl
@[simp] theorem beginRun_prog : (beginRun s).prog = List.replicate s.n none := rfl
@[simp] theorem beginRun_ref : (beginRun s).ref = [] := rfl
@[simp] theorem beginRun_out : (beginRun s).out = [] := rfl
@[simp] theorem beginRun_scan : (beginRun s).scan = 0 := rfl
@[simp] theorem beginRun_phase : (beginRun s).phase = .decode := rfl
@[simp] theorem beginRun_err : (beginRun s).err = s.err := rfl
@[simp] theorem beginRun_params : (beginRun s).params = s.params := rfl
@[simp] theorem beginRun_hostMoves : (beginRun s).hostMoves = s.hostMoves := rfl

end Sys2Proof.Machine
end

