-- ==== Sys2Proof/Laws/Ops.lean ====
section
/-! SUPPORT. For each shared operation one lemma that says everything it can do. -/

namespace Sys2Proof.Machine

open Host (Outcome)

/-! ## Printing a template, piece by piece -/

@[simp] theorem printTemplate_nil (sep : Text) (ops : List (Option Text)) : printTemplate sep [] ops = [] := rfl

@[simp] theorem printTemplate_cons (sep : Text) (p : Piece) (t : Template) (ops : List (Option Text)) :
    printTemplate sep (p :: t) ops = pieceText sep ops p ++ printTemplate sep t ops := rfl

@[simp] theorem pieceText_lit (sep t : Text) (ops : List (Option Text)) : pieceText sep ops (.lit t) = t := rfl

@[simp] theorem pieceText_sep (sep : Text) (ops : List (Option Text)) : pieceText sep ops .sep = sep := rfl

/-- An operand that is printed stands between its two texts. -/
theorem pieceText_operand {sep before after t : Text} {ops : List (Option Text)} {k : Nat}
    (h : ops[k]? = some (some t)) : pieceText sep ops (.operand k before after) = before ++ t ++ after := by
  simp only [pieceText, h]

/-- An operand that is not printed leaves nothing, not even the texts around it. -/
theorem pieceText_operand_absent {sep before after : Text} {ops : List (Option Text)} {k : Nat}
    (h : ops[k]? = some none) : pieceText sep ops (.operand k before after) = [] := by
  simp only [pieceText, h]

/-- The default template with the separator. -/
theorem printTemplate_operandTemplate (w : String) (sep a b : Text) :
    printTemplate sep (operandTemplate w) [some a, some b] = w.toList ++ " ".toList ++ (a ++ (sep ++ b)) := by
  simp [operandTemplate, opcodePiece, pieceText]

/-- The default template with a word that may be left out. -/
theorem printTemplate_optionalWordTemplate (w : String) (sep b : Text) (a : Option Text) :
    printTemplate sep (optionalWordTemplate w) [a, some b] =
      w.toList ++ " ".toList ++ ((match a with | some t => t ++ " ".toList | none => []) ++ b) := by
  cases a <;> simp [optionalWordTemplate, opcodePiece, pieceText]

/-- The template of three words. -/
theorem printTemplate_threeWordTemplate (w : String) (sep a b c : Text) :
    printTemplate sep (threeWordTemplate w) [some a, some b, some c] =
      w.toList ++ " ".toList ++ (a ++ (" ".toList ++ (b ++ (" ".toList ++ c)))) := by
  simp [threeWordTemplate, opcodePiece, pieceText]

@[simp] theorem defaultTemplates_jmp : defaultTemplates.jmp = optionalWordTemplate "jmp" := rfl
@[simp] theorem defaultTemplates_inn : defaultTemplates.inn = operandTemplate "in" := rfl
@[simp] theorem defaultTemplates_out : defaultTemplates.out = operandTemplate "out" := rfl
@[simp] theorem defaultTemplates_push : defaultTemplates.push = optionalWordTemplate "push" := rfl
@[simp] theorem defaultTemplates_pull : defaultTemplates.pull = optionalWordTemplate "pull" := rfl
@[simp] theorem defaultTemplates_mov : defaultTemplates.mov = operandTemplate "mov" := rfl
@[simp] theorem defaultTemplates_irq : defaultTemplates.irq = threeWordTemplate "irq" := rfl
@[simp] theorem defaultTemplates_set : defaultTemplates.set = operandTemplate "set" := rfl

/-- What `jmp` prints for an entry of `COND`. -/
theorem conditionText_eq (entry : Option Text) :
    conditionText entry = if entry = some [] then none else some (lookup entry) := by
  by_cases h : entry = some [] <;> simp [conditionText, isAlways, h]

/-! ## ASCII texts -/

@[simp] theorem asciiText_nil : asciiText [] = true := rfl

@[simp] theorem asciiText_append (t u : Text) : asciiText (t ++ u) = (asciiText t && asciiText u) := by
  simp [asciiText]

/-- A registered text of an ASCII table, or `RESERVED`. -/
theorem asciiText_lookup {k : Nat} {t : Table k} (h : t.ascii = true) (v : BitVec k) :
    asciiText (lookup (t.entry v)) = true := by
  have hv : t.entry v ∈ t.toList := by simp [Table.entry]
  have := List.all_eq_true.1 h _ hv
  cases he : t.entry v with
  | none => rfl
  | some x =>
    rw [he] at this
    exact this

/-- A piece prints ASCII if its texts, `SEP` and the printed operands are ASCII. -/
theorem asciiText_pieceText {sep : Text} {ops : List (Option Text)} {p : Piece} (hp : p.ascii = true)
    (hs : asciiText sep = true) (ho : ∀ t, some t ∈ ops → asciiText t = true) :
    asciiText (pieceText sep ops p) = true := by
  cases p with
  | lit t => exact hp
  | sep => exact hs
  | operand k before after =>
    rcases h : ops[k]? with _ | _ | t
    · simp [pieceText, h]
    · simp [pieceText, h]
    · have ht := ho t (List.mem_of_getElem? h)
      simp only [Piece.ascii, Bool.and_eq_true] at hp
      simp [pieceText_operand h, hp.1, hp.2, ht]

/-- A template prints ASCII if its texts, `SEP` and the printed operands are ASCII. -/
theorem asciiText_printTemplate {sep : Text} {ops : List (Option Text)} {t : Template} (ht : Template.ascii t = true)
    (hs : asciiText sep = true) (ho : ∀ t, some t ∈ ops → asciiText t = true) :
    asciiText (printTemplate sep t ops) = true := by
  induction t with
  | nil => rfl
  | cons p t ih =>
    simp only [Template.ascii, List.all_cons, Bool.and_eq_true] at ht
    simp only [printTemplate_cons, asciiText_append, Bool.and_eq_true]
    exact ⟨asciiText_pieceText ht.1 hs ho, ih ht.2⟩

/-- A template with an operation prints it first, whatever the operands are. -/
theorem printTemplate_operation {word : String} {t : Template} (h : t.printsOperation word = true) (sep : Text)
    (ops : List (Option Text)) :
    ∃ operation rest, printTemplate sep t ops = operation ++ rest ∧ operationWord operation = word.toList := by
  match t, h with
  | .lit text :: t, h => exact ⟨text, printTemplate sep t ops, rfl, by simpa [Template.printsOperation] using h⟩

/-- A text that names an operation is not empty. -/
theorem ne_nil_of_operationWord {t : Text} {word : Text} (h : operationWord t = word) (hw : word ≠ []) : t ≠ [] := by
  rintro rfl
  exact hw h.symm

/-- What admissible parameters are, part by part. -/
theorem params_admissible_iff {p : Params} :
    p.admissible = true ↔
      p.ascii = true ∧ p.tables.admissible = true ∧ p.templates.admissible = true ∧ p.printsSetFragment = true := by
  simp [Params.admissible, and_assoc]

/-- The fragment the source fixes, as `set` prints it. -/
theorem params_printsSetFragment_iff {p : Params} :
    p.printsSetFragment = true ↔
      printTemplate p.sep p.templates.set [some "PINS".toList, some "0".toList] = "set PINS,0".toList := by
  simp [Params.printsSetFragment]

/-! ## The configuration, records, steps -/

/-- The configuration is read exactly if it is written and legal, and it is then the registers' contents. -/
theorem readConfig_eq_ok {s : State} {c : SidesetConfig} :
    readConfig s = .ok c ↔ s.configWritten = true ∧ s.config.legal = true ∧ c = s.config := by
  unfold readConfig
  split
  · split
    · rename_i hw hl
      constructor
      · rintro ⟨⟩
        exact ⟨hw, hl, rfl⟩
      · rintro ⟨-, -, rfl⟩
        rfl
    · rename_i hl
      exact ⟨fun h => (by cases h), fun h => absurd h.2.1 hl⟩
  · rename_i hw
    exact ⟨fun h => (by cases h), fun h => absurd h.1 hw⟩

/-- Why the configuration is not read. -/
theorem readConfig_eq_error {s : State} {r : Refusal} :
    readConfig s = .error r ↔
      (s.configWritten = false ∧ r = .unwrittenConfiguration) ∨
        (s.configWritten = true ∧ s.config.legal = false ∧ r = .illegalConfiguration) := by
  unfold readConfig
  cases s.configWritten <;> cases s.config.legal <;> simp [eq_comm]

/-- Storing a record answers a next state exactly if the configuration is read. -/
theorem storeRecord_eq_next {m : Text} {t : Option Nat} {tail : BitVec 5} {s s' : State} :
    storeRecord m t tail s = .next s' ↔
      s.configWritten = true ∧ s.config.legal = true ∧ s' = putRecord ⟨m, t, ssd s.config tail⟩ s := by
  unfold storeRecord
  cases h : readConfig s with
  | ok c =>
    obtain ⟨hw, hl, rfl⟩ := readConfig_eq_ok.1 h
    simp [hw, hl, eq_comm]
  | error r =>
    rcases readConfig_eq_error.1 h with ⟨hw, -⟩ | ⟨-, hl, -⟩
    · simp [hw]
    · simp [hl]

/-- Storing a record never faults. -/
theorem storeRecord_ne_fault {m : Text} {t : Option Nat} {tail : BitVec 5} {s : State} {f : Fault} :
    storeRecord m t tail s ≠ .fault f := by
  unfold storeRecord
  cases readConfig s <;> simp

/-- The bytes of a word decode to the word's instruction; fewer bytes do not decode. -/
theorem fetch_eq_ok {s : State} {i : Instr} :
    fetch s = .ok i ↔ ∃ w, Memory.readWord s.wmem s.scan = some w ∧ i = decodeWord w := by
  unfold fetch Memory.fetchBytes Memory.readWord
  cases Memory.readByte s.wmem (2 * s.scan) <;> cases Memory.readByte s.wmem (2 * s.scan + 1) <;>
    simp [decodeBytes, eq_comm]

/-- A failed fetch says that the word at SCAN does not exist. -/
theorem fetch_eq_error {s : State} {f : Fault} :
    fetch s = .error f ↔ Memory.readWord s.wmem s.scan = none ∧ f = .absentWord s.scan := by
  unfold fetch Memory.fetchBytes Memory.readWord
  cases Memory.readByte s.wmem (2 * s.scan) <;> cases Memory.readByte s.wmem (2 * s.scan + 1) <;>
    simp [decodeBytes, eq_comm]

/-- A move allowed in IDLE only answers a next state exactly there. -/
theorem onlyInIdle_eq_next {f : State → State} {s s' : State} :
    onlyInIdle f s = .next s' ↔ s.phase = .idle ∧ s' = f s := by
  unfold onlyInIdle
  split
  · rename_i h
    simp [h, eq_comm]
  · rename_i h
    simp [h]

/-- The start's precondition (70_reset_and_hazards.md R252). -/
theorem startEnabled_iff {s : State} :
    startEnabled s = true ↔
      s.phase = .idle ∧ s.err = .none ∧ s.config.legal = true ∧ s.configWritten = true := by
  simp [startEnabled, and_assoc]

/-- What the byte loader does (20_memory.md R51, 60_exceptions.md R222). -/
theorem loadBytes_cases (bytes : List Byte) (s : State) :
    (inputShapeOk bytes = true ∧
        loadBytes bytes s = { s with n := bytes.length / 2, wmem := Memory.ofBytes bytes }) ∨
      (inputShapeOk bytes = false ∧ loadBytes bytes s = raiseShape s) := by
  unfold loadBytes
  cases inputShapeOk bytes <;> simp

/-- A new target is appended, an old one leaves the list as it is. -/
theorem mem_addRef {ref : List Nat} {t u : Nat} : u ∈ addRef ref t ↔ u ∈ ref ∨ u = t := by
  unfold addRef
  split
  · rename_i h
    constructor
    · exact Or.inl
    · rintro (h' | rfl)
      · exact h'
      · exact h
  · simp

/-- What is emitted for an address. -/
theorem recordsOf_eq (ref : List Nat) (a : Nat) (d : DecodedInstruction) :
    recordsOf ref a d =
      if a ∈ ref then [.label a, .instr a d.mnemonic d.sidesetText] else [.instr a d.mnemonic d.sidesetText] := by
  unfold recordsOf
  split <;> rfl

/-- The block's own step, by phase. -/
theorem coreStep_eq (s : State) :
    coreStep s =
      (if s.phase = .decode then decodeStep s
       else if s.phase = .collect then collectStep s
       else if s.phase = .emit then emitStep s
       else .next s) := by
  unfold coreStep
  cases s.phase <;> rfl

/-- A step is a step of the block or a move of the host. -/
theorem step_cases (s : State) :
    (s.hostMoves = [] ∧ step s = coreStep s) ∨
      (∃ rest, s.hostMoves = none :: rest ∧ step s = coreStep { s with hostMoves := rest }) ∨
        ∃ m rest, s.hostMoves = some m :: rest ∧ step s = hostMove m { s with hostMoves := rest } := by
  unfold step nextStep
  cases h : s.hostMoves with
  | nil => exact .inl ⟨rfl, rfl⟩
  | cons e rest =>
    cases e with
    | none => exact .inr (.inl ⟨rest, rfl, rfl⟩)
    | some m => exact .inr (.inr ⟨m, rest, rfl, rfl⟩)

end Sys2Proof.Machine
end

