-- ==== Sys2Proof/Laws/PerInstr.lean ====
section
/-! SUPPORT. The per-instruction families: facts about the instruction as syntax, one lemma for each constructor. -/

namespace Sys2Proof.Laws

/-- The word of an instruction has the class bits and the tail the instruction says (30_encoding.md R70, R71). -/
def ClassAndTail.Statement (i : Instr) : Prop :=
  classOfNumber (opcodeClass (encode i)) = i.opClass ∧ tailOf (encode i) = i.tail

theorem ClassAndTail.jmp (tail : BitVec 5) (cond : BitVec 3) (addr : BitVec 5) :
    ClassAndTail.Statement (.jmp tail cond addr) := by simp [ClassAndTail.Statement, encode]

theorem ClassAndTail.wait (tail : BitVec 5) (pol : BitVec 1) (src : BitVec 2) (index : BitVec 5) :
    ClassAndTail.Statement (.wait tail pol src index) := by simp [ClassAndTail.Statement, encode]

theorem ClassAndTail.in_ (tail : BitVec 5) (src : BitVec 3) (bitcount : BitVec 5) :
    ClassAndTail.Statement (.in_ tail src bitcount) := by simp [ClassAndTail.Statement, encode]

theorem ClassAndTail.out (tail : BitVec 5) (dst : BitVec 3) (bitcount : BitVec 5) :
    ClassAndTail.Statement (.out tail dst bitcount) := by simp [ClassAndTail.Statement, encode]

theorem ClassAndTail.push (tail : BitVec 5) (cflag block : Bool) :
    ClassAndTail.Statement (.push tail cflag block) := by simp [ClassAndTail.Statement, encode]

theorem ClassAndTail.pull (tail : BitVec 5) (cflag block : Bool) :
    ClassAndTail.Statement (.pull tail cflag block) := by simp [ClassAndTail.Statement, encode]

theorem ClassAndTail.mov (tail : BitVec 5) (dst : BitVec 3) (op : BitVec 2) (src : BitVec 3) :
    ClassAndTail.Statement (.mov tail dst op src) := by simp [ClassAndTail.Statement, encode]

theorem ClassAndTail.irq (tail : BitVec 5) (clr wait : Bool) (index : BitVec 5) :
    ClassAndTail.Statement (.irq tail clr wait index) := by simp [ClassAndTail.Statement, encode]

theorem ClassAndTail.set (tail : BitVec 5) (dst : BitVec 3) (data : BitVec 5) :
    ClassAndTail.Statement (.set tail dst data) := by simp [ClassAndTail.Statement, encode]

end Sys2Proof.Laws
end

