-- ==== Sys2Proof/Laws/Program.lean ====
section
/-! SUPPORT. Laws that tie WMEM's cells to the program's words, and of the pure functions on Programs. -/

namespace Sys2Proof.Machine

/-- A byte written is read back, and a write leaves every other byte alone. -/
theorem Memory.readByte_writeByte (m : Memory) (a x : Nat) (b : Byte) :
    (m.writeByte a b).readByte x = if x = a then some b else m.readByte x := by
  induction m with
  | nil => simp [Memory.writeByte, Memory.readByte]
  | cons c rest ih =>
    obtain ⟨k, y⟩ := c
    unfold Memory.writeByte
    split
    · simp [Memory.readByte]
    · split
      · rename_i h
        subst h
        by_cases hx : x = a <;> simp [Memory.readByte, hx]
      · rename_i h h'
        by_cases hk : x = k
        · subst hk
          simp [Memory.readByte, show x ≠ a by omega]
        · simp [Memory.readByte, hk, ih]

/-- A word written is read back. -/
theorem Memory.readWord_writeWord (m : Memory) (a : Nat) (w : Word) : (m.writeWord a w).readWord a = some w := by
  simp [Memory.readWord, Memory.writeWord, Memory.readByte_writeByte]

/-- Cells with consecutive addresses are consecutive bytes. -/
theorem Memory.eq_ofBytesFrom {m : Memory} {a : Nat} (h : m.map Prod.fst = List.range' a m.length) :
    m = Memory.ofBytesFrom a (m.map Prod.snd) := by
  induction m generalizing a with
  | nil => rfl
  | cons c rest ih =>
    obtain ⟨k, b⟩ := c
    simp only [List.map_cons, List.length_cons, List.range'_succ, List.cons.injEq] at h
    obtain ⟨rfl, h⟩ := h
    simp only [List.map_cons, Memory.ofBytesFrom]
    rw [← ih h]

theorem wordsOfBytes_length (bytes : List Byte) : (wordsOfBytes bytes).length = bytes.length / 2 := by
  induction bytes using wordsOfBytes.induct with
  | case1 hi lo rest ih =>
    simp only [wordsOfBytes, List.length_cons, ih]
    omega
  | case2 bytes h =>
    match bytes, h with
    | [], _ => rfl
    | [_], _ => simp [wordsOfBytes]
    | a :: b :: r, h => exact absurd rfl (h a b r)

/-- The word at an address of a byte sequence: its byte pair, if both bytes exist. -/
theorem readWord_ofBytes (bytes : List Byte) (a : Nat) :
    (Memory.ofBytes bytes).readWord a = (wordsOfBytes bytes)[a]? := by
  unfold Memory.readWord
  rw [Memory.readByte_ofBytes, Memory.readByte_ofBytes]
  induction bytes using wordsOfBytes.induct generalizing a with
  | case1 hi lo rest ih =>
    cases a with
    | zero => simp [wordsOfBytes]
    | succ a =>
      have h := ih a
      simp only [wordsOfBytes, List.getElem?_cons_succ, Nat.mul_succ]
      exact h
  | case2 bytes h =>
    match bytes, h with
    | [], _ => simp [wordsOfBytes]
    | [x], _ => cases a <;> simp [wordsOfBytes, Nat.mul_succ]
    | a :: b :: r, h => exact absurd rfl (h a b r)

section Loaded

variable {s : State}

theorem MemoryHoldsProgram.length (h : MemoryHoldsProgram s) : s.wmem.length = 2 * s.n := by
  have := congrArg List.length h
  simpa using this

/-- The memory of a loaded program is the memory of its bytes. -/
theorem MemoryHoldsProgram.eq_ofBytes (h : MemoryHoldsProgram s) :
    s.wmem = Memory.ofBytes (s.wmem.map Prod.snd) :=
  Memory.eq_ofBytesFrom (by rw [h.length, ← List.range_eq_range']; exact h)

theorem MemoryHoldsProgram.loadedWords_length (h : MemoryHoldsProgram s) : (loadedWords s).length = s.n := by
  rw [loadedWords, wordsOfBytes_length, List.length_map, h.length]
  omega

/-- Reading WMEM gives the loaded words. -/
theorem MemoryHoldsProgram.readWord_eq (h : MemoryHoldsProgram s) (a : Nat) :
    Memory.readWord s.wmem a = (loadedWords s)[a]? := by
  conv_lhs => rw [h.eq_ofBytes, readWord_ofBytes]
  rfl

theorem MemoryHoldsProgram.wf (h : MemoryHoldsProgram s) : Memory.wf s.wmem = true := by
  rw [h.eq_ofBytes]
  exact Memory.wf_ofBytes _

theorem MemoryHoldsProgram.programFor_length (h : MemoryHoldsProgram s) : (programFor s).length = s.n := by
  rw [programFor, programOf, List.length_map, h.loadedWords_length]

end Loaded

/-- A load of an even number of bytes holds its words. -/
theorem memoryHoldsProgram_of_ofBytes {s : State} {bytes : List Byte} (hm : s.wmem = Memory.ofBytes bytes)
    (hn : 2 * s.n = bytes.length) : MemoryHoldsProgram s := by
  unfold MemoryHoldsProgram
  rw [hm, Memory.ofBytes, Memory.ofBytesFrom_addresses, hn, List.range_eq_range']

/-- The meaning of an instruction, whichever it is: it stores the record of the instruction. -/
theorem exec_eq_storeRecord (i : Instr) (s : State) :
    exec i s = storeRecord (mnemonicOf s.params i) (targetOf i) i.tail s := by
  cases i <;> rfl

/-- Everything an instruction can do where it answers a next state. -/
theorem exec_eq_next {i : Instr} {s t : State} :
    exec i s = .next t ↔
      s.configWritten = true ∧ s.config.legal = true ∧ t = putRecord (describe s.params s.config i) s := by
  rw [exec_eq_storeRecord, storeRecord_eq_next]
  rfl

end Sys2Proof.Machine
end

