-- ==== Sys2Proof/Laws/Run.lean ====
section
/-! SUPPORT. Laws of runs and of the lists a run builds, one element at a time. -/

namespace Sys2Proof.Machine

/-- A run of one step more is the run from the next state, for any machine. -/
theorem run_succ_of_next (M : Host.Core) (k : Nat) (s t : M.State) (h : M.step s = .next t) :
    M.run (k + 1) s = M.run k t := by
  simp only [Host.Core.run, h]

/-- The same for this machine, in its own names. -/
theorem core_run_succ (k : Nat) (s : State) {t : State} (h : step s = .next t) :
    Host.Core.run core (k + 1) s = Host.Core.run core k t :=
  run_succ_of_next core k s t h

/-- Without a host move the step is the block's own. -/
theorem step_of_noMoves {s : State} (h : s.hostMoves = []) : step s = coreStep s := by
  simp [step, nextStep, h]

/-- The invariant says nothing of the host's moves. -/
theorem inv_hostMoves {s : State} {moves : List (Option HostMove)} : Inv { s with hostMoves := moves } ↔ Inv s :=
  Iff.rfl

/-- Every target is the value of a 5-bit field. -/
theorem targetOf_lt {i : Instr} {a : Nat} (h : targetOf i = some a) : a < 32 := by
  cases i <;> simp [targetOf] at h
  subst h
  exact BitVec.isLt _

/-- Keeping first occurrences loses no element. -/
theorem mem_dedupFirst (ts : List Nat) (a : Nat) : a ∈ dedupFirst ts ↔ a ∈ ts := by
  induction ts with
  | nil => simp [dedupFirst]
  | cons t ts ih =>
    simp only [dedupFirst, List.mem_cons, List.mem_filter, ih]
    by_cases h : a = t <;> simp [h]

/-- One more target, at the end. -/
theorem dedupFirst_snoc (xs : List Nat) (t : Nat) : dedupFirst (xs ++ [t]) = addRef (dedupFirst xs) t := by
  induction xs with
  | nil => simp [dedupFirst, addRef]
  | cons x xs ih =>
    simp only [List.cons_append, dedupFirst, ih]
    unfold addRef
    by_cases h : t = x
    · subst h
      by_cases h2 : t ∈ dedupFirst xs <;> simp [h2]
    · by_cases h2 : t ∈ dedupFirst xs <;> simp [h, h2, List.filter_append]

/-- One more record, at the end. -/
theorem referencesOf_snoc (ds : List DecodedInstruction) (d : DecodedInstruction) :
    referencesOf (ds ++ [d]) = collectTarget (referencesOf ds) d.target := by
  unfold referencesOf collectTarget
  cases h : d.target with
  | none => simp [h]
  | some t => simp [h, dedupFirst_snoc]

/-- The stream of two Programs in a row. -/
theorem emissionFrom_append (ref : List Nat) (xs ys : List DecodedInstruction) (a : Nat) :
    emissionFrom ref a (xs ++ ys) = emissionFrom ref a xs ++ emissionFrom ref (a + xs.length) ys := by
  induction xs generalizing a with
  | nil => simp [emissionFrom]
  | cons x xs ih => simp [emissionFrom, ih, Nat.add_assoc, Nat.add_comm 1]

end Sys2Proof.Machine
end

