-- ==== Sys2Proof/Tests/Slice0.lean ====
section
/-! SUPPORT. Tests on small states, each of one step at most, and a witness for every statement that has hypotheses.
Expected values are those of spec/95_test_vectors.md, or worked out by hand from the rule named; none is the model's own
answer. -/

namespace Sys2Proof.Tests

open Sys2Proof.Machine

/-! ## Well-formedness: what each check refuses -/

theorem test_legal_configurations :
    (SidesetConfig.mk 5 false).legal = true ∧ (SidesetConfig.mk 4 true).legal = true ∧
      (SidesetConfig.mk 0 true).legal = true := by decide

theorem test_width_six_refused : (SidesetConfig.mk 6 false).widthInRange = false := by decide

theorem test_width_seven_refused : (SidesetConfig.mk 7 true).legal = false := by decide

theorem test_five_with_enable_refused :
    (SidesetConfig.mk 5 true).widthInRange = true ∧ (SidesetConfig.mk 5 true).fitsTail = false := by decide

theorem test_three_bytes_refused : inputShapeOk [0x00, 0x02, 0xA0] = false := by decide

/-- COND(1) must be `!X`. -/
theorem test_tables_other_cond_one_refused :
    (Tables.condOneIsNotX { defaultTables with cond := Vector.replicate 8 none }) = false := by decide

/-- No "always" entry, and two of them. -/
theorem test_tables_always_count_refused :
    (Tables.oneAlways { defaultTables with cond := Vector.replicate 8 none }) = false ∧
      (Tables.oneAlways { defaultTables with cond := Vector.replicate 8 (some []) }) = false := by decide

theorem test_tables_registered_mov_op_three_refused :
    (Tables.movOpThreeReserved { defaultTables with movOp := Vector.replicate 4 (some []) }) = false := by decide

theorem test_tables_two_mov_ops_refused :
    (Tables.threeMovOps { defaultTables with movOp := #v[some [], none, none, none] }) = false := by decide

theorem test_tables_without_set_pins_refused :
    (Tables.someSetPins { defaultTables with setDst := Vector.replicate 8 none }) = false := by decide

/-- A template that leaves an operand out, one that prints an operand twice, and one with an operand it has not. -/
theorem test_templates_refused :
    Template.printsAll 2 [.operand 1 [] []] = false ∧
      Template.printsAll 2 [.operand 0 [] [], .operand 1 [] [], .operand 0 [] []] = false ∧
      Template.printsAll 2 [.operand 0 [] [], .operand 2 [] []] = false ∧
      Templates.admissible { defaultTemplates with irq := operandTemplate "irq" } = false := by decide

/-- A `mov` template of its two operands alone, one with spaces only before them, and one with another operation. -/
theorem test_templates_without_operation_refused :
    Template.printsOperation "mov" [.operand 0 [] [], .operand 1 [] []] = false ∧
      Template.printsOperation "mov" [.lit "  ".toList, .operand 0 [] [], .operand 1 [] []] = false ∧
      Templates.admissible { defaultTemplates with mov := operandTemplate "set" } = false ∧
      Template.printsOperation "mov" [.lit " MOV\t".toList, .operand 0 [] [], .operand 1 [] []] = true :=
  ⟨by decide, by decide, by decide, by decide⟩

/-- Another separator alone, or another shape of `set`, changes the fragment the source fixes. -/
theorem test_parameters_without_set_fragment_refused :
    Params.printsSetFragment { defaultParams with sep := ", ".toList } = false ∧
      Params.admissible { defaultParams with sep := ", ".toList } = false ∧
      Params.printsSetFragment
        { defaultParams with templates := { defaultTemplates with set := optionalWordTemplate "set" } } = false :=
  ⟨by decide, by decide, by decide⟩

/-- A character beyond 127 in `SEP`, in `IRQ_NOTE`, in a table, in a template. -/
theorem test_parameters_not_ascii_refused :
    Params.ascii { defaultParams with sep := "é".toList } = false ∧
      Params.admissible { defaultParams with irqNote := "é".toList } = false ∧
      Tables.ascii { defaultTables with waitSrc := #v[none, none, none, some "é".toList] } = false ∧
      Templates.ascii { defaultTemplates with jmp := optionalWordTemplate "é" } = false :=
  ⟨by decide, by decide, by decide, by decide⟩

theorem test_default_parameters_admissible : defaultParams.admissible = true := by decide

/-! ## Decoding: words written out from the encodings, class, tail, operand fields (30_encoding.md R71 to R79) -/

theorem test_decode_jmp : decodeWord 0b000_11111_111_11111 = .jmp 31 7 31 := by decide
theorem test_decode_jmp_fields : decodeWord 0b000_00000_101_00101 = .jmp 0 5 5 := by decide
theorem test_decode_wait : decodeWord 0b001_00000_1_01_00011 = .wait 0 1 1 3 := by decide
theorem test_decode_in : decodeWord 0b010_00000_110_01000 = .in_ 0 6 8 := by decide
theorem test_decode_out : decodeWord 0b011_00001_111_00000 = .out 1 7 0 := by decide
theorem test_decode_push : decodeWord 0b100_00000_0_1_0_00000 = .push 0 true false := by decide
theorem test_decode_pull : decodeWord 0b100_11111_1_0_1_00000 = .pull 31 false true := by decide
theorem test_decode_mov : decodeWord 0b101_00000_101_10_101 = .mov 0 5 2 5 := by decide
theorem test_decode_irq : decodeWord 0b110_00000_0_0_1_11000 = .irq 0 false true 24 := by decide
theorem test_decode_irq_clear : decodeWord 0b110_10000_0_1_0_00101 = .irq 16 true false 5 := by decide
theorem test_decode_set : decodeWord 0b111_00000_100_11111 = .set 0 4 31 := by decide

/-- Bits no rule reads: 4 to 0 of `pull`, 7 of `irq` (30_encoding.md R84). -/
theorem test_decode_drops_dont_care_bits :
    decodeWord 0b100_00000_1_1_0_11111 = .pull 0 true false ∧
      decodeWord 0b110_00000_1_0_0_00000 = .irq 0 false false 0 := by decide

/-- The first byte is bits 15 to 8 (table V-LOAD). -/
theorem test_decode_bytes_big_endian :
    decodeBytes [0x81, 0xE0, 0x00] = .ok (.pull 1 true true, [0x00]) := by decide

theorem test_decode_half_word : decodeBytes [0x81] = .error .halfWord := by decide

theorem test_encode_mov : encode (.mov 0 7 0 6) = 0xA0E6 := by decide
theorem test_encode_wait : encode (.wait 31 0 3 31) = 0x3F7F := by decide

/-! ## Texts: tables V-SSD and V-LOAD, reserved values -/

theorem test_ssd_heuristic : ssd ⟨2, false⟩ 0b11011 = "side 3 [3]".toList ∧ ssd ⟨2, false⟩ 0b00011 = "[3]".toList := by
  decide
theorem test_ssd_flag : ssd ⟨1, true⟩ 0b10000 = "side 0".toList ∧ ssd ⟨1, true⟩ 0b01000 = [] := by decide
theorem test_ssd_corner : ssd ⟨0, true⟩ 0b10000 = "[16]".toList ∧ ssd ⟨5, false⟩ 0b10101 = "side 21".toList := by decide
theorem test_mov_reserved : movText defaultParams 3 3 4 = "mov RESERVED,RESERVEDRESERVED".toList := by decide

/-- The only fragment with two operands the source shows. -/
theorem test_set_fragment : setText defaultParams 0 0 = "set PINS,0".toList := by decide
theorem test_label_lower_case : label 31 = "label_0x1f".toList ∧ label 10 = "label_0xa".toList := by decide

/-! ## Small states -/

/-- A run just begun on the words `ws` with configuration `c`. -/
def started (c : SidesetConfig) (ws : List Word) : State :=
  { State.reset with
    cfgWidth := c.width
    cfgWidthWritten := true
    cfgEn := c.en
    cfgEnWritten := true
    n := ws.length
    wmem := Memory.ofBytes (bytesOfWords ws)
    prog := List.replicate ws.length none
    phase := .decode }

/-- One word to decode, with five tail bits of delay. -/
def one (w : Word) : State := started ⟨0, false⟩ [w]

/-- The record of `0x0001`. -/
def jumpRecord : DecodedInstruction := ⟨"jmp label_0x1".toList, some 1, []⟩

/-- The record of `0xE000`. -/
def setRecord : DecodedInstruction := ⟨"set PINS,0".toList, none, []⟩

/-- The words `0x0001, 0xE000`, decoded, in phase `p` at `SCAN = scan`. -/
def decoded (p : Phase) (scan : Nat) (ref : List Nat) (out : List EmitRecord) : State :=
  { started ⟨0, false⟩ [0x0001, 0xE000] with
    prog := [some jumpRecord, some setRecord]
    phase := p
    scan := scan
    ref := ref
    out := out }

/-- The whole stream of the words `0x0001, 0xE000` (44_program_disassembler.md R197). -/
def wholeStream : List EmitRecord :=
  [.instr 0 "jmp label_0x1".toList [], .label 1, .instr 1 "set PINS,0".toList []]

/-- IDLE with these host moves to come. -/
def idleWith (moves : List (Option HostMove)) : State := { State.reset with hostMoves := moves }

/-- What an outcome stored in PROG. -/
def progOf : Host.Outcome State Fault Refusal → List (Option DecodedInstruction)
  | .next t => t.prog
  | .fault _ => []
  | .refused _ => []

/-! ## One instruction each: the record stored is that of the table (95_test_vectors.md section 2). The first two
conjuncts are the hypotheses of the instruction's statement. -/

theorem test_witness_jmp : ConfigReady (one 0x00A5) ∧ (one 0x00A5).scan < (one 0x00A5).prog.length ∧
    (one 0x00A5).params.templates = defaultTemplates ∧
    progOf (exec (.jmp 0 5 5) (one 0x00A5)) = [some ⟨"jmp X!=Y label_0x5".toList, some 5, []⟩] := ⟨⟨rfl, rfl⟩, by decide, rfl, rfl⟩

theorem test_jmp_always : progOf (exec (.jmp 31 0 31) (one 0x1F1F)) =
    [some ⟨"jmp label_0x1f".toList, some 31, "[31]".toList⟩] := rfl

theorem test_witness_wait : ConfigReady (one 0x20FF) ∧ (one 0x20FF).scan < (one 0x20FF).prog.length ∧
    progOf (exec (.wait 0 1 3 31) (one 0x20FF)) = [some ⟨"wait 1 RESERVED 31".toList, none, []⟩] := ⟨⟨rfl, rfl⟩, by decide, rfl⟩

theorem test_witness_in : ConfigReady (one 0x4020) ∧ (one 0x4020).scan < (one 0x4020).prog.length ∧
    (one 0x4020).params.templates = defaultTemplates ∧
    progOf (exec (.in_ 0 1 0) (one 0x4020)) = [some ⟨"in X,32".toList, none, []⟩] := ⟨⟨rfl, rfl⟩, by decide, rfl, rfl⟩

theorem test_witness_out : ConfigReady (one 0x60D0) ∧ (one 0x60D0).scan < (one 0x60D0).prog.length ∧
    (one 0x60D0).params.templates = defaultTemplates ∧
    progOf (exec (.out 0 6 16) (one 0x60D0)) = [some ⟨"out ISR,16".toList, none, []⟩] := ⟨⟨rfl, rfl⟩, by decide, rfl, rfl⟩

theorem test_witness_push : ConfigReady (one 0x8040) ∧ (one 0x8040).scan < (one 0x8040).prog.length ∧
    (one 0x8040).params.templates = defaultTemplates ∧
    progOf (exec (.push 0 true false) (one 0x8040)) = [some ⟨"push iffull noblock".toList, none, []⟩] := ⟨⟨rfl, rfl⟩, by decide, rfl, rfl⟩

theorem test_witness_pull : ConfigReady (one 0x80E0) ∧ (one 0x80E0).scan < (one 0x80E0).prog.length ∧
    (one 0x80E0).params.templates = defaultTemplates ∧
    progOf (exec (.pull 0 true true) (one 0x80E0)) = [some ⟨"pull ifempty block".toList, none, []⟩] := ⟨⟨rfl, rfl⟩, by decide, rfl, rfl⟩

theorem test_witness_mov : ConfigReady (one 0xA029) ∧ (one 0xA029).scan < (one 0xA029).prog.length ∧
    (one 0xA029).params.templates = defaultTemplates ∧
    progOf (exec (.mov 0 1 1 1) (one 0xA029)) = [some ⟨"mov X,!X".toList, none, []⟩] := ⟨⟨rfl, rfl⟩, by decide, rfl, rfl⟩

theorem test_witness_irq : ConfigReady (one 0xC065) ∧ (one 0xC065).scan < (one 0xC065).prog.length ∧
    (one 0xC065).params.templates = defaultTemplates ∧
    progOf (exec (.irq 0 true true 5) (one 0xC065)) =
      [some ⟨"irq clear 5 ; WARNING: irq decoding is unstable/unsupported".toList, none, []⟩] := ⟨⟨rfl, rfl⟩, by decide, rfl, rfl⟩

theorem test_irq_high_index : progOf (exec (.irq 0 false false 24) (one 0xC018)) =
    [some ⟨"irq nowait 0 ; WARNING: irq decoding is unstable/unsupported".toList, none, []⟩] := rfl

theorem test_witness_set : ConfigReady (one 0xE03F) ∧ (one 0xE03F).scan < (one 0xE03F).prog.length ∧
    (one 0xE03F).params.templates = defaultTemplates ∧
    progOf (exec (.set 0 1 31) (one 0xE03F)) = [some ⟨"set X,31".toList, none, []⟩] := ⟨⟨rfl, rfl⟩, by decide, rfl, rfl⟩

/-- A block with other parameters: another separator, another symbol, other shapes; `set` has a comma of its own. -/
def otherParams : Params :=
  { defaultParams with
    tables := { defaultTables with outDst := #v[none, none, none, none, none, none, some "In".toList, none] }
    templates := { defaultTemplates with
      out := [.lit "OUT".toList, .operand 0 "(".toList [], .sep, .operand 1 [] ")".toList]
      set := [.lit "set ".toList, .operand 0 [] ",".toList, .operand 1 [] []] }
    sep := "; ".toList }

theorem test_other_parameters_are_used : otherParams.admissible = true ∧
    progOf (exec (.out 0 6 16) { one 0x60D0 with params := otherParams }) = [some ⟨"OUT(In; 16)".toList, none, []⟩] :=
  ⟨by decide, rfl⟩

/-- The fragment the source fixes, from a `set` template with a comma of its own. -/
theorem test_witness_set_fragment : ConfigReady { one 0xE000 with params := otherParams } ∧
    otherParams.admissible = true ∧ lookup (otherParams.tables.setDst.entry 0) = "PINS".toList ∧
    progOf (exec (.set 0 0 0) { one 0xE000 with params := otherParams }) = [some setRecord] :=
  ⟨⟨rfl, rfl⟩, by decide, rfl, rfl⟩

/-! ## Witnesses: encoding, tables, side-set -/

theorem test_witness_dont_care_push : opcodeClass 0x8000 = opcodeClass 0x801F ∧
    ∀ i < 16, ¬ (classOfNumber (opcodeClass 0x8000) = .pushPull ∧ i < 5) →
      ¬ (classOfNumber (opcodeClass 0x8000) = .irq ∧ (i = 7 ∨ i = 4 ∨ i = 3)) →
      bitAt 0x8000 i = bitAt 0x801F i := by decide

theorem test_witness_dont_care_irq : opcodeClass 0xC000 = opcodeClass 0xC098 ∧
    ∀ i < 16, ¬ (classOfNumber (opcodeClass 0xC000) = .pushPull ∧ i < 5) →
      ¬ (classOfNumber (opcodeClass 0xC000) = .irq ∧ (i = 7 ∨ i = 4 ∨ i = 3)) →
      bitAt 0xC000 i = bitAt 0xC098 i := by decide

theorem test_witness_reserved_mov : defaultParams.tables.admissible = true ∧ classOfNumber (opcodeClass 0xA038) = .mov ∧
    slice 0xA038 3 2 = 3 ∧ classOfNumber (opcodeClass 0xC098) = .irq :=
  ⟨by decide, by decide, by decide, by decide⟩

theorem test_witness_no_delay_bits : (SidesetConfig.mk 5 false = ⟨5, false⟩ ∨ SidesetConfig.mk 5 false = ⟨4, true⟩) ∧
    (SidesetConfig.mk 4 true = ⟨5, false⟩ ∨ SidesetConfig.mk 4 true = ⟨4, true⟩) := by decide

/-- Two words of different classes with one tail; two words with one operand and different tails. -/
theorem test_witness_independent : tailOf 0x1F00 = tailOf 0xFF00 ∧
    (opcodeClass 0xE081 = opcodeClass 0xFF81 ∧ slice 0xE081 0 8 = slice 0xFF81 0 8) := by decide

/-! ## Witnesses: every instruction's frame, stops, and the steps of a run -/

theorem test_witness_frame : exec (.set 0 0 0) (one 0xE000) =
    .next { one 0xE000 with prog := [some setRecord], scan := 1 } := rfl

theorem test_witness_stops :
    (State.reset.configWritten = false) ∧
    ((started ⟨5, true⟩ []).configWritten = true ∧ (started ⟨5, true⟩ []).config.legal = false) ∧
    ((started ⟨4, true⟩ []).configWritten = true ∧ (started ⟨4, true⟩ []).config.legal = true) := by decide

theorem test_stops_by_name : exec (.set 0 0 0) State.reset = .refused .unwrittenConfiguration ∧
    exec (.set 0 0 0) (started ⟨6, false⟩ []) = .refused .illegalConfiguration := ⟨rfl, rfl⟩

/-- The same instruction at address 0 and at address 1. -/
theorem test_witness_two_addresses :
    (one 0xE000).config = (decoded .decode 1 [] []).config ∧ (one 0xE000).params = (decoded .decode 1 [] []).params ∧
    (one 0xE000).scan < (one 0xE000).prog.length ∧
    (decoded .decode 1 [] []).scan < (decoded .decode 1 [] []).prog.length ∧
    exec (.set 0 0 0) (one 0xE000) = .next { one 0xE000 with prog := [some setRecord], scan := 1 } ∧
    exec (.set 0 0 0) (decoded .decode 1 [] []) = .next (decoded .decode 2 [] []) := ⟨rfl, rfl, by decide, by decide, rfl, rfl⟩

theorem test_witness_step_runs : (one 0xE000).phase = .decode ∧ (one 0xE000).scan < (one 0xE000).n ∧
    decodeBytes (Memory.fetchBytes (one 0xE000).wmem (one 0xE000).scan) = .ok (.set 0 0 0, []) ∧
    (one 0xE000).hostMoves = [] := ⟨by decide, by decide, by decide, by decide⟩

theorem test_witness_step_runs_no_move :
    { one 0xE000 with hostMoves := [none] }.phase = .decode ∧ 0 < { one 0xE000 with hostMoves := [none] }.n ∧
    decodeBytes (Memory.fetchBytes { one 0xE000 with hostMoves := [none] }.wmem 0) = .ok (.set 0 0 0, []) ∧
    step { one 0xE000 with hostMoves := [none] } =
      .next { one 0xE000 with prog := [some setRecord], scan := 1 } := ⟨rfl, by decide, rfl, rfl⟩

theorem test_witness_decode_step : (one 0xE000).phase = .decode ∧ (one 0xE000).hostMoves = [] ∧
    ConfigReady (one 0xE000) ∧ (one 0xE000).scan < (one 0xE000).n ∧ (one 0xE000).scan < (one 0xE000).prog.length ∧
    Memory.readWord (one 0xE000).wmem (one 0xE000).scan = some 0xE000 := ⟨rfl, rfl, ⟨rfl, rfl⟩, by decide, by decide, rfl⟩

theorem test_witness_decode_end : ConfigReady (decoded .decode 2 [] []) ∧
    (decoded .decode 2 [] []).scan = (decoded .decode 2 [] []).n ∧
    step (decoded .decode 2 [] []) = .next (decoded .collect 0 [] []) := ⟨⟨rfl, rfl⟩, rfl, rfl⟩

/-- A new target, a target already there, no target, and the end. -/
theorem test_witness_collect :
    step (decoded .collect 0 [] []) = .next (decoded .collect 1 [1] []) ∧
    step (decoded .collect 0 [1] []) = .next (decoded .collect 1 [1] []) ∧
    step (decoded .collect 1 [1] []) = .next (decoded .collect 2 [1] []) ∧
    step (decoded .collect 2 [1] []) = .next (decoded .emit 0 [1] []) := ⟨rfl, rfl, rfl, rfl⟩

/-- An address without a label, one with a label, and the end. -/
theorem test_witness_emit :
    step (decoded .emit 0 [1] []) = .next (decoded .emit 1 [1] [.instr 0 "jmp label_0x1".toList []]) ∧
    step (decoded .emit 1 [1] [.instr 0 "jmp label_0x1".toList []]) = .next (decoded .emit 2 [1] wholeStream) ∧
    step (decoded .emit 2 [1] wholeStream) = .next (decoded .done 2 [1] wholeStream) := ⟨rfl, rfl, rfl⟩

theorem test_witness_idle_and_done : State.reset.phase = .idle ∧ State.reset.hostMoves = [] ∧
    (decoded .done 2 [1] wholeStream).phase = .done ∧ (decoded .done 2 [1] wholeStream).hostMoves = [] := by decide

/-- A configured block with one word loaded and a start to come. -/
def configured : State := { one 0xE000 with phase := .idle, prog := [], hostMoves := [some .start] }

theorem test_witness_start : configured.phase = .idle ∧ configured.err = .none ∧ ConfigReady configured ∧
    step configured = .next (one 0xE000) := ⟨rfl, rfl, ⟨rfl, rfl⟩, rfl⟩

/-- Each reason a start is not enabled: the phase, ERR, a register not written, an illegal configuration. -/
theorem test_witness_start_not_enabled :
    step { decoded .done 2 [1] wholeStream with hostMoves := [some .start] } =
      .next (decoded .done 2 [1] wholeStream) ∧
    step { configured with err := .shape } = .next { configured with err := .shape, hostMoves := [] } ∧
    step { configured with cfgEnWritten := false } =
      .next { configured with cfgEnWritten := false, hostMoves := [] } ∧
    step { configured with cfgWidth := 5, cfgEn := true } =
      .next { configured with cfgWidth := 5, cfgEn := true, hostMoves := [] } := ⟨rfl, rfl, rfl, rfl⟩

/-- Each of the four phase changes of a run, from a state whose SCAN does not pass N. -/
theorem test_witness_phase_changes :
    (configured.scan ≤ configured.n ∧ step configured = .next (one 0xE000) ∧ (one 0xE000).phase ≠ configured.phase) ∧
    ((decoded .decode 2 [] []).scan ≤ (decoded .decode 2 [] []).n ∧
      step (decoded .decode 2 [] []) = .next (decoded .collect 0 [] [])) ∧
    ((decoded .collect 2 [1] []).scan ≤ (decoded .collect 2 [1] []).n ∧
      step (decoded .collect 2 [1] []) = .next (decoded .emit 0 [1] [])) ∧
    ((decoded .emit 2 [1] wholeStream).scan ≤ (decoded .emit 2 [1] wholeStream).n ∧
      step (decoded .emit 2 [1] wholeStream) = .next (decoded .done 2 [1] wholeStream)) :=
  ⟨⟨by decide, rfl, by decide⟩, ⟨by decide, rfl⟩, ⟨by decide, rfl⟩, by decide, rfl⟩

/-- The phase change by reset. -/
theorem test_witness_phase_change_by_reset :
    step { decoded .emit 1 [1] [] with hostMoves := [some .reset, none] } = .next (idleWith [none]) ∧
    nextMoveIsReset { decoded .emit 1 [1] [] with hostMoves := [some .reset, none] } = true := ⟨rfl, rfl⟩

theorem test_witness_fixed_during_run : (one 0xE000).phase ≠ .idle ∧ nextMoveIsReset (one 0xE000) = false ∧
    step (one 0xE000) = .next { one 0xE000 with prog := [some setRecord], scan := 1 } := ⟨by decide, rfl, rfl⟩

theorem test_witness_collect_and_emit_without_memory :
    (decoded .collect 0 [] []).phase = .collect ∧ (decoded .emit 2 [1] wholeStream).phase = .emit ∧
    step (decoded .collect 0 [] []) = .next (decoded .collect 1 [1] []) ∧
    step (decoded .emit 2 [1] wholeStream) = .next (decoded .done 2 [1] wholeStream) ∧
    step { decoded .collect 0 [] [] with wmem := [] } = .next { decoded .collect 1 [1] [] with wmem := [] } ∧
    step { decoded .emit 2 [1] wholeStream with wmem := [] } =
      .next { decoded .done 2 [1] wholeStream with wmem := [] } := ⟨rfl, rfl, rfl, rfl, rfl, rfl⟩

/-! ## Witnesses: the invariant -/

theorem test_reset_memory_wf : Memory.wf State.reset.wmem = true := rfl

/-- The invariant in the middle of a run: two words, the first decoded. -/
theorem test_witness_inv_decode :
    Inv { started ⟨0, false⟩ [0x0001, 0xE000] with prog := [some jumpRecord, none], scan := 1 } := ⟨rfl, by decide, ⟨⟨rfl, rfl⟩, rfl⟩, rfl, rfl, rfl⟩

/-- A state that meets the invariant, its step, and no reset among the host's moves. -/
theorem test_witness_inv_step :
    Inv { started ⟨0, false⟩ [0x0001, 0xE000] with prog := [some jumpRecord, none], scan := 1 } ∧
    step { started ⟨0, false⟩ [0x0001, 0xE000] with prog := [some jumpRecord, none], scan := 1 } =
      .next (decoded .decode 2 [] []) ∧
    nextMoveIsReset { started ⟨0, false⟩ [0x0001, 0xE000] with prog := [some jumpRecord, none], scan := 1 } = false :=
  ⟨test_witness_inv_decode, rfl, rfl⟩

theorem test_witness_inv_start_of_run : Inv (started ⟨0, false⟩ [0x0001, 0xE000]) ∧
    (started ⟨0, false⟩ [0x0001, 0xE000]).phase = .decode ∧ (started ⟨0, false⟩ [0x0001, 0xE000]).scan = 0 ∧
    (started ⟨0, false⟩ [0x0001, 0xE000]).hostMoves = [] := 
  ⟨⟨rfl, by decide, ⟨⟨rfl, rfl⟩, rfl⟩, rfl, rfl, rfl⟩, rfl, rfl, rfl⟩

theorem test_witness_inv_emit : Inv (decoded .emit 1 [1] [.instr 0 "jmp label_0x1".toList []]) := 
  ⟨rfl, by decide, ⟨⟨rfl, rfl⟩, rfl⟩, rfl, rfl, rfl⟩

theorem test_witness_inv_done : Inv (decoded .done 2 [1] wholeStream) ∧
    (decoded .done 2 [1] wholeStream).phase = .done := 
  ⟨⟨rfl, by decide, ⟨⟨rfl, rfl⟩, rfl⟩, rfl, rfl, rfl, rfl⟩, rfl⟩

/-- A good state outside DONE: the one above shows the other clause of what the host reads. -/
theorem test_witness_inv_not_done : Inv State.reset ∧ State.reset.phase ≠ .done :=
  ⟨⟨rfl, by decide, rfl, rfl, rfl, rfl⟩, by decide⟩

/-- A run with other parameters also begins in a good state. -/
theorem test_witness_inv_other_parameters : Inv { one 0x60D0 with params := otherParams } :=
  ⟨rfl, by decide, ⟨⟨rfl, rfl⟩, rfl⟩, rfl, rfl, rfl⟩

/-- A good state whose host writes the configuration, in IDLE. -/
theorem test_witness_no_stop : Inv (idleWith [some (.writeEn true)]) ∧
    nextMoveWritesInput (idleWith [some (.writeEn true)]) = true ∧ (idleWith [some (.writeEn true)]).phase = .idle :=
  ⟨⟨rfl, by decide, rfl, rfl, rfl, rfl⟩, rfl, rfl⟩

theorem test_witness_whole_run : (SidesetConfig.mk 5 false).legal = true ∧
    ([0x00, 0x01, 0xE0, 0x00] : List Byte).length % 2 = 0 := by decide

theorem test_disassemble_two_words :
    disassemble defaultParams ⟨0, false⟩ [0x0001, 0xE000] = ([jumpRecord, setRecord], [1], wholeStream) := by decide

theorem test_disassemble_nothing : ([] : List Word) = [] ∧ disassemble defaultParams ⟨0, false⟩ [] = ([], [], []) :=
  ⟨rfl, rfl⟩

/-- The one word `0x001F` of example E9. -/
theorem test_witness_jump_beyond : defaultParams.templates = defaultTemplates ∧ (0x001F : Word) ∈ [(0x001F : Word)] ∧
    classOfNumber (opcodeClass 0x001F) = .jmp ∧ [(0x001F : Word)].length ≤ (slice 0x001F 0 5).toNat := ⟨rfl, by decide⟩

/-- The boundary: a jump to address N itself. -/
theorem test_witness_jump_to_end : (0x0001 : Word) ∈ [(0x0001 : Word)] ∧
    classOfNumber (opcodeClass 0x0001) = .jmp ∧ [(0x0001 : Word)].length ≤ (slice 0x0001 0 5).toNat := by decide

/-! ## Witnesses: the host, the exception, reset -/

theorem test_witness_odd_input : (idleWith [some (.loadBytes [0x00, 0x02, 0xA0])]).phase = .idle ∧
    ([0x00, 0x02, 0xA0] : List Byte).length % 2 = 1 ∧
    step (idleWith [some (.loadBytes [0x00, 0x02, 0xA0])]) =
    .next { State.reset with err := .shape } := ⟨rfl, rfl, rfl⟩

theorem test_witness_shape_error_holds :
    { idleWith [some .start, some (.loadBytes [])] with err := .shape }.phase = .idle ∧
    { idleWith [some .start, some (.loadBytes [])] with err := .shape }.err = .shape ∧
    some HostMove.reset ∉ { idleWith [some .start, some (.loadBytes [])] with err := .shape }.hostMoves := by decide

/-- ERR changes by a reset and by an odd load. -/
theorem test_witness_err_changes :
    (step { idleWith [some .reset] with err := .shape } = .next State.reset ∧
      State.reset.err ≠ { idleWith [some .reset] with err := .shape }.err) ∧
    (step (idleWith [some (.loadBytes [0x00])]) = .next { State.reset with err := .shape } ∧
      { State.reset with err := .shape }.err ≠ (idleWith [some (.loadBytes [0x00])]).err) :=
  ⟨⟨rfl, by decide⟩, rfl, by decide⟩

theorem test_witness_even_input : (idleWith [some (.loadBytes [0xE0, 0x81, 0x00, 0x02])]).phase = .idle ∧
    ([0xE0, 0x81, 0x00, 0x02] : List Byte).length % 2 = 0 ∧
    step (idleWith [some (.loadBytes [0xE0, 0x81, 0x00, 0x02])]) =
    .next { State.reset with n := 2, wmem := [(0, 0xE0), (1, 0x81), (2, 0x00), (3, 0x02)] } := ⟨rfl, rfl, rfl⟩

/-- The last word of an even input, and the addresses from N on. -/
theorem test_witness_even_input_last_word :
    ([0xE0, 0x81, 0x00, 0x02] : List Byte)[2 * 1]? = some 0x00 ∧
    ([0xE0, 0x81, 0x00, 0x02] : List Byte)[2 * 1 + 1]? = some 0x02 ∧
    Memory.readWord (Memory.ofBytes [0xE0, 0x81, 0x00, 0x02]) 1 = some 0x0002 ∧
    Memory.readWord (Memory.ofBytes [0xE0, 0x81, 0x00, 0x02]) 2 = none := by decide

theorem test_witness_empty_input : step (idleWith [some (.loadBytes [])]) = .next State.reset := rfl

/-- The byte loader with an even and with an odd number of bytes, and words. -/
theorem test_witness_any_order : State.reset.phase = .idle ∧
    (([0xE0, 0x00] : List Byte).length % 2 = 0 ∧
      [HostMove.loadBytes [0xE0, 0x00], .writeEn true, .writeWidth 2].Perm
        [.writeWidth 2, .writeEn true, .loadBytes [0xE0, 0x00]]) ∧
    (([0xE0] : List Byte).length % 2 = 1 ∧
      [HostMove.writeEn true, .loadBytes [0xE0], .writeWidth 2].Perm
        [.writeWidth 2, .writeEn true, .loadBytes [0xE0]]) ∧
    [HostMove.loadWords [0xE000], .writeEn true, .writeWidth 2].Perm
      [.writeWidth 2, .writeEn true, .loadWords [0xE000]] := by decide

theorem test_witness_write_outside_idle :
    nextMoveWritesInput { one 0xE000 with hostMoves := [some (.writeWidth 2)] } = true ∧
    { one 0xE000 with hostMoves := [some (.writeWidth 2)] }.phase ≠ .idle ∧
    step { one 0xE000 with hostMoves := [some (.writeWidth 2)] } = .refused .hostMoveOutsideIdle := ⟨rfl, by decide, rfl⟩

theorem test_witness_reset_from_done :
    step { decoded .done 2 [1] wholeStream with hostMoves := [some .reset, some .start] } =
      .next (idleWith [some .start]) := rfl

/-- A register not written since reset: left alone, and written now. -/
theorem test_witness_unwritten_configuration :
    (idleWith [some .start]).phase = .idle ∧ (idleWith [some .start]).cfgWidthWritten = false ∧
    (idleWith [some .start]).cfgEnWritten = false ∧ step (idleWith [some .start]) = .next State.reset ∧
    step { idleWith [some (.writeWidth 3)] with cfgWidth := 7 } = step (idleWith [some (.writeWidth 3)]) := ⟨rfl, rfl, rfl, rfl, rfl⟩

/-- The largest word that can be placed, in the reset state. -/
theorem test_witness_placed_word : 0xFFFF < 65536 ∧
    progOf (step (State.reset.withFetchWord 16 0xFFFF)) =
      [some ⟨"set RESERVED,31".toList, none, "[31]".toList⟩] := ⟨by decide, rfl⟩

end Sys2Proof.Tests
end

section
/-! PROOFS. Numbers as digits: `dec` and `hexl` are the library's `Nat.toDigits`, so each fact is proved once, for any
base, by induction over the digits. -/

namespace Sys2Proof.Machine

/-! ## The digits of a number in any base -/

/-- Induction over the digits of a number, the last digit split off in each step. -/
theorem toDigits_induction {b : Nat} (hb : 1 < b) {motive : Nat → Text → Prop}
    (digit : ∀ d < b, motive d [d.digitChar])
    (snoc : ∀ n d, 0 < n → d < b → motive n (Nat.toDigits b n) →
      motive (b * n + d) (Nat.toDigits b n ++ [d.digitChar]))
    (n : Nat) : motive n (Nat.toDigits b n) := by
  induction n using Nat.strongRecOn with
  | ind n ih =>
    by_cases h : n < b
    · rw [Nat.toDigits_of_lt_base h]
      exact digit n h
    · have hbn : b ≤ n := Nat.le_of_not_lt h
      have hlt : n / b < n := Nat.div_lt_self (by omega) hb
      rw [Nat.toDigits_of_base_le hb hbn]
      have := snoc (n / b) (n % b) (Nat.div_pos hbn (by omega)) (Nat.mod_lt n (by omega)) (ih _ hlt)
      rwa [Nat.div_add_mod] at this

/-- Digits read back as the number, whatever function gives a digit its value. -/
theorem foldl_toDigits {b : Nat} (hb : 1 < b) {value : Char → Nat} (hv : ∀ d < b, value d.digitChar = d) (n : Nat) :
    (Nat.toDigits b n).foldl (fun v c => b * v + value c) 0 = n := by
  induction n using toDigits_induction hb with
  | digit d hd => simp [hv d hd]
  | snoc n d _ hd ih => simp [ih, hv d hd]

/-- Every character is the digit of a number below the base. -/
theorem exists_digitChar_of_mem_toDigits {b : Nat} (hb : 1 < b) (n : Nat) :
    ∀ c ∈ Nat.toDigits b n, ∃ d < b, d.digitChar = c := by
  induction n using toDigits_induction hb with
  | digit d hd => simpa using ⟨d, hd, rfl⟩
  | snoc n d _ hd ih =>
    intro c hc
    rcases List.mem_append.1 hc with hc | hc
    · exact ih c hc
    · exact ⟨d, hd, (List.mem_singleton.1 hc).symm⟩

/-- Only zero begins with the digit `0`. -/
theorem eq_zero_of_head?_toDigits {b : Nat} (hb : 1 < b) (n : Nat) :
    (Nat.toDigits b n).head? = some '0' → n = 0 := by
  induction n using toDigits_induction hb with
  | digit d hd => simp
  | snoc n d hn hd ih =>
    rw [List.head?_append_of_ne_nil _ Nat.toDigits_ne_nil]
    exact fun h => absurd (ih h) hn.ne'

/-- No leading zero but in `0` itself. -/
theorem toDigits_eq_zero_of_head? {b : Nat} (hb : 1 < b) {n : Nat} (h : (Nat.toDigits b n).head? = some '0') :
    Nat.toDigits b n = ['0'] := by
  rw [eq_zero_of_head?_toDigits hb n h, Nat.toDigits_zero]

/-! ## Decimal and hexadecimal digits -/

theorem digitChar_decimal : ∀ d < 10, '0' ≤ d.digitChar ∧ d.digitChar ≤ '9' := by decide

theorem digitChar_hexadecimal :
    ∀ d < 16, ('0' ≤ d.digitChar ∧ d.digitChar ≤ '9') ∨ ('a' ≤ d.digitChar ∧ d.digitChar ≤ 'f') := by decide

/-- The value of a lower-case hexadecimal digit. -/
def hexValue (c : Char) : Nat := if c ≤ '9' then c.toNat - '0'.toNat else c.toNat - 'a'.toNat + 10

theorem hexValue_digitChar : ∀ d < 16, hexValue d.digitChar = d := by decide

end Sys2Proof.Machine

open Sys2Proof.Machine

/-- Settles O9: the digit facts at base 10. -/
theorem decimalTextReadsBack : Obligations.DecimalTextReadsBack := by
  intro n
  have hb : 1 < 10 := by decide
  refine ⟨?_, ?_, toDigits_eq_zero_of_head? hb, Nat.toDigits_ne_nil⟩
  · rw [← Nat.ofDigitChars_eq_foldl]
    exact Nat.ofDigitChars_ten_toDigits
  · intro c hc
    obtain ⟨d, hd, rfl⟩ := exists_digitChar_of_mem_toDigits hb n c hc
    exact digitChar_decimal d hd

/-- Settles O10: the digit facts at base 16. -/
theorem hexadecimalTextReadsBack : Obligations.HexadecimalTextReadsBack := by
  intro n
  have hb : 1 < 16 := by decide
  refine ⟨foldl_toDigits hb hexValue_digitChar n, ?_, toDigits_eq_zero_of_head? hb, Nat.toDigits_ne_nil⟩
  intro c hc
  obtain ⟨d, hd, rfl⟩ := exists_digitChar_of_mem_toDigits hb n c hc
  exact digitChar_hexadecimal d hd

end

section
/-! PROOFS. The default parameters: the tables value by value, and that they are admissible part by part. -/

namespace Sys2Proof.Machine

theorem defaultParams_ascii : defaultParams.ascii = true := by decide

theorem defaultTables_admissible : defaultTables.admissible = true := by decide

theorem defaultTemplates_admissible : defaultTemplates.admissible = true := by decide

/-- The default template of `set` with the default `SEP` prints the fragment the source fixes. -/
theorem defaultParams_printsSetFragment : defaultParams.printsSetFragment = true :=
  params_printsSetFragment_iff.2 (printTemplate_operandTemplate "set" defaultSep _ _)

theorem defaultParams_admissible : defaultParams.admissible = true :=
  params_admissible_iff.2
    ⟨defaultParams_ascii, defaultTables_admissible, defaultTemplates_admissible, defaultParams_printsSetFragment⟩

end Sys2Proof.Machine

open Sys2Proof.Machine

/-- Settles O7: the reset state holds the default parameters, so each table is its list of entries. -/
theorem defaultParametersHoldTheListedTexts : Obligations.DefaultParametersHoldTheListedTexts :=
  ⟨rfl, rfl, rfl, rfl, rfl, rfl, rfl, rfl, rfl, rfl, rfl, defaultParams_admissible⟩

end

section
/-! PROOFS. The texts of a record: which characters they hold and how a mnemonic begins and ends. -/

namespace Sys2Proof.Machine

/-! ## Printable texts -/

/-- `IsPrintableAscii` as a check. -/
def printableText (t : Text) : Bool := t.all fun c => decide (0x20 ≤ c.toNat ∧ c.toNat < 0x7F)

theorem printableText_iff {t : Text} : printableText t = true ↔ IsPrintableAscii t := by
  simp [printableText, IsPrintableAscii]

@[simp] theorem printableText_nil : printableText [] = true := rfl

@[simp] theorem printableText_cons (c : Char) (t : Text) :
    printableText (c :: t) = (decide (0x20 ≤ c.toNat ∧ c.toNat < 0x7F) && printableText t) := rfl

@[simp] theorem printableText_append (t u : Text) :
    printableText (t ++ u) = (printableText t && printableText u) := by
  simp [printableText]

theorem asciiText_of_printableText {t : Text} (h : printableText t = true) : asciiText t = true := by
  refine List.all_eq_true.2 fun c hc => decide_eq_true ?_
  have := printableText_iff.1 h c hc
  omega

/-! ## Texts without a space at either end -/

/-- What the default mnemonics are (43_instruction_decoder.md R165(d)): printable, not empty, and without a space at
the beginning or at the end. -/
abbrev Unpadded (t : Text) : Prop :=
  t ≠ [] ∧ t.head? ≠ some ' ' ∧ t.getLast? ≠ some ' ' ∧ printableText t = true

/-- The two ends of a text decide about its spaces; what stands between only has to be printable. -/
theorem Unpadded.join {a m b : Text} (ha : Unpadded a) (hm : printableText m = true) (hb : Unpadded b) :
    Unpadded (a ++ (m ++ b)) := by
  obtain ⟨hane, hahead, -, hap⟩ := ha
  obtain ⟨hbne, -, hblast, hbp⟩ := hb
  refine ⟨by simp [hane], ?_, ?_, by simp [hap, hm, hbp]⟩
  · rwa [List.head?_append_of_ne_nil _ hane]
  · rwa [← List.append_assoc, List.getLast?_append_of_ne_nil _ hbne]

/-- Two such texts with one space between. -/
theorem Unpadded.spaced {a b : Text} (ha : Unpadded a) (hb : Unpadded b) : Unpadded (a ++ (" ".toList ++ b)) :=
  ha.join rfl hb

theorem Unpadded.printable {t : Text} (h : Unpadded t) : printableText t = true := by
  obtain ⟨-, -, -, hp⟩ := h
  exact hp

theorem Unpadded.ascii {t : Text} (h : Unpadded t) : asciiText t = true := asciiText_of_printableText h.printable

theorem digitChar_printable : ∀ d < 16, d.digitChar ≠ ' ' ∧ 0x20 ≤ d.digitChar.toNat ∧ d.digitChar.toNat < 0x7F := by
  decide

theorem unpadded_toDigits {b : Nat} (hb : 1 < b) (hb16 : b ≤ 16) (n : Nat) : Unpadded (Nat.toDigits b n) := by
  have hdigit : ∀ c ∈ Nat.toDigits b n, c ≠ ' ' ∧ 0x20 ≤ c.toNat ∧ c.toNat < 0x7F := by
    intro c hc
    obtain ⟨d, hd, rfl⟩ := exists_digitChar_of_mem_toDigits hb n c hc
    exact digitChar_printable d (by omega)
  refine ⟨Nat.toDigits_ne_nil, ?_, ?_, printableText_iff.2 fun c hc => (hdigit c hc).2⟩
  · exact fun h => (hdigit _ (List.mem_of_head? h)).1 rfl
  · exact fun h => (hdigit _ (List.mem_of_getLast? h)).1 rfl

theorem unpadded_dec (n : Nat) : Unpadded (dec n) := unpadded_toDigits (by decide) (by decide) n

theorem unpadded_label (a : Nat) : Unpadded (label a) :=
  Unpadded.join (a := "label_0x".toList) (m := []) (by decide) rfl (unpadded_toDigits (by decide) (by decide) a)

theorem unpadded_blockText : ∀ block, Unpadded (blockText block) := by decide

theorem unpadded_ifFullText : ∀ cflag, ∀ t ∈ ifFullText cflag, Unpadded t := by decide

theorem unpadded_ifEmptyText : ∀ cflag, ∀ t ∈ ifEmptyText cflag, Unpadded t := by decide

theorem unpadded_irqMode : ∀ clr wait, Unpadded (irqMode clr wait) := by decide

/-! ## The side-set text -/

theorem printableText_dec (n : Nat) : printableText (dec n) = true := (unpadded_dec n).printable

theorem printableText_sidePart (c : SidesetConfig) (t : BitVec 5) :
    ∀ x ∈ sidePart c t, printableText x = true := by
  simp [sidePart, printableText_dec]

theorem printableText_delayPart (c : SidesetConfig) (t : BitVec 5) :
    ∀ x ∈ delayPart c t, printableText x = true := by
  simp [delayPart, printableText_dec]

theorem printableText_joinParts {a b : Option Text} (ha : ∀ x ∈ a, printableText x = true)
    (hb : ∀ x ∈ b, printableText x = true) : printableText (joinParts a b) = true := by
  match a, b with
  | some x, some y => simp [joinParts, ha x rfl, hb y rfl]
  | some x, none => exact ha x rfl
  | none, some y => exact hb y rfl
  | none, none => rfl

/-- The side-set text is printable under every configuration: it is made of fixed words and decimal numbers. -/
theorem printableText_ssd (c : SidesetConfig) (t : BitVec 5) : printableText (ssd c t) = true :=
  printableText_joinParts (printableText_sidePart c t) (printableText_delayPart c t)

/-! ## A mnemonic is the print of the instruction's template with the instruction's operands -/

/-- The template an instruction is printed with. -/
def templateOf (ts : Templates) : Instr → Template
  | .jmp _ _ _ => ts.jmp
  | .wait _ _ _ _ => waitTemplate
  | .in_ _ _ _ => ts.inn
  | .out _ _ _ => ts.out
  | .push _ _ _ => ts.push
  | .pull _ _ _ => ts.pull
  | .mov _ _ _ _ => ts.mov
  | .irq _ _ _ _ => ts.irq
  | .set _ _ _ => ts.set

/-- The operands an instruction hands to its template. -/
def operandsOf (p : Params) : Instr → List (Option Text)
  | .jmp _ cond addr => [conditionText (p.tables.cond.entry cond), some (label addr.toNat)]
  | .wait _ pol src index =>
    [some (fieldText pol), some (lookup (p.tables.waitSrc.entry src)), some (fieldText index)]
  | .in_ _ src bitcount => [some (lookup (p.tables.inSrc.entry src)), some (bitcountText bitcount)]
  | .out _ dst bitcount => [some (lookup (p.tables.outDst.entry dst)), some (bitcountText bitcount)]
  | .push _ cflag block => [ifFullText cflag, some (blockText block)]
  | .pull _ cflag block => [ifEmptyText cflag, some (blockText block)]
  | .mov _ dst op src =>
    [some (lookup (p.tables.movDst.entry dst)),
     some (lookup (p.tables.movOp.entry op) ++ lookup (p.tables.movSrc.entry src))]
  | .irq _ clr wait index => [some (irqMode clr wait), some (dec (effIndex index)), some p.irqNote]
  | .set _ dst data => [some (lookup (p.tables.setDst.entry dst)), some (fieldText data)]

theorem mnemonicOf_eq_printTemplate (p : Params) (i : Instr) :
    mnemonicOf p i = printTemplate p.sep (templateOf p.templates i) (operandsOf p i) := by
  cases i <;> rfl

theorem waitTemplate_printsOperation : waitTemplate.printsOperation "wait" = true := by decide

theorem waitTemplate_ascii : Template.ascii waitTemplate = true := by decide

/-- The template of an instruction names the instruction's row of the opcode map. -/
theorem templateOf_printsOperation {ts : Templates} (h : ts.admissible = true) (i : Instr) :
    ∃ word : String, (templateOf ts i).printsOperation word = true ∧ word.toList = (rowOf i).mnemonic := by
  simp only [Templates.admissible, Template.wellFormed, Bool.and_eq_true] at h
  obtain ⟨⟨⟨⟨⟨⟨⟨⟨hjmp, -⟩, hin, -⟩, hout, -⟩, hpush, -⟩, hpull, -⟩, hmov, -⟩, hirq, -⟩, hset, -⟩ := h
  cases i with
  | jmp => exact ⟨"jmp", hjmp, rfl⟩
  | wait => exact ⟨"wait", waitTemplate_printsOperation, rfl⟩
  | in_ => exact ⟨"in", hin, rfl⟩
  | out => exact ⟨"out", hout, rfl⟩
  | push => exact ⟨"push", hpush, rfl⟩
  | pull => exact ⟨"pull", hpull, rfl⟩
  | mov => exact ⟨"mov", hmov, rfl⟩
  | irq => exact ⟨"irq", hirq, rfl⟩
  | set => exact ⟨"set", hset, rfl⟩

theorem rowOf_mnemonic_ne_nil (i : Instr) : (rowOf i).mnemonic ≠ [] := by
  cases i <;> simp [rowOf]

/-- A mnemonic begins with the word of its operation (10_state.md R29). -/
theorem mnemonicOf_operation {p : Params} (h : p.templates.admissible = true) (i : Instr) :
    ∃ operation rest, mnemonicOf p i = operation ++ rest ∧ operationWord operation = (rowOf i).mnemonic := by
  obtain ⟨word, hprints, hword⟩ := templateOf_printsOperation h i
  rw [mnemonicOf_eq_printTemplate, ← hword]
  exact printTemplate_operation hprints p.sep (operandsOf p i)

theorem mnemonicOf_ne_nil {p : Params} (h : p.templates.admissible = true) (i : Instr) : mnemonicOf p i ≠ [] := by
  obtain ⟨operation, rest, heq, hoperation⟩ := mnemonicOf_operation h i
  have := ne_nil_of_operationWord hoperation (rowOf_mnemonic_ne_nil i)
  simp [heq, this]

/-! ## With ASCII parameters a mnemonic is ASCII -/

theorem templateOf_ascii {ts : Templates} (h : ts.ascii = true) (i : Instr) :
    Template.ascii (templateOf ts i) = true := by
  simp only [Templates.ascii, Bool.and_eq_true] at h
  obtain ⟨⟨⟨⟨⟨⟨⟨hjmp, hin⟩, hout⟩, hpush⟩, hpull⟩, hmov⟩, hirq⟩, hset⟩ := h
  cases i with
  | jmp => exact hjmp
  | wait => exact waitTemplate_ascii
  | in_ => exact hin
  | out => exact hout
  | push => exact hpush
  | pull => exact hpull
  | mov => exact hmov
  | irq => exact hirq
  | set => exact hset

theorem params_ascii_iff {p : Params} :
    p.ascii = true ↔
      p.tables.ascii = true ∧ p.templates.ascii = true ∧ asciiText p.sep = true ∧ asciiText p.irqNote = true := by
  simp [Params.ascii, and_assoc]

theorem asciiText_dec (n : Nat) : asciiText (dec n) = true := (unpadded_dec n).ascii

theorem asciiText_conditionText {t : Table 3} (h : t.ascii = true) (v : BitVec 3) :
    ∀ x ∈ conditionText (t.entry v), asciiText x = true := by
  rw [conditionText_eq]
  split
  · nofun
  · rintro x ⟨⟩
    exact asciiText_lookup h v

/-- The operands are words of the tables, numbers, fixed words and the note. -/
theorem asciiText_of_mem_operandsOf {p : Params} (h : p.ascii = true) (i : Instr) :
    ∀ o ∈ operandsOf p i, ∀ t ∈ o, asciiText t = true := by
  obtain ⟨htables, -, -, hnote⟩ := params_ascii_iff.1 h
  simp only [Tables.ascii, Bool.and_eq_true] at htables
  obtain ⟨⟨⟨⟨⟨⟨⟨hcond, hwaitSrc⟩, hinSrc⟩, houtDst⟩, hmovDst⟩, hmovOp⟩, hmovSrc⟩, hsetDst⟩ := htables
  cases i with
  | jmp tail cond addr =>
    simpa [operandsOf, (unpadded_label _).ascii] using asciiText_conditionText hcond cond
  | wait => simp [operandsOf, fieldText, asciiText_dec, asciiText_lookup hwaitSrc]
  | in_ => simp [operandsOf, bitcountText, asciiText_dec, asciiText_lookup hinSrc]
  | out => simp [operandsOf, bitcountText, asciiText_dec, asciiText_lookup houtDst]
  | push tail cflag block =>
    simpa [operandsOf, (unpadded_blockText block).ascii] using fun t ht => (unpadded_ifFullText cflag t ht).ascii
  | pull tail cflag block =>
    simpa [operandsOf, (unpadded_blockText block).ascii] using fun t ht => (unpadded_ifEmptyText cflag t ht).ascii
  | mov => simp [operandsOf, asciiText_lookup hmovDst, asciiText_lookup hmovOp, asciiText_lookup hmovSrc]
  | irq tail clr wait index => simp [operandsOf, (unpadded_irqMode clr wait).ascii, asciiText_dec, hnote]
  | set => simp [operandsOf, fieldText, asciiText_dec, asciiText_lookup hsetDst]

theorem asciiText_mnemonicOf {p : Params} (h : p.ascii = true) (i : Instr) : asciiText (mnemonicOf p i) = true := by
  obtain ⟨-, htemplates, hsep, -⟩ := params_ascii_iff.1 h
  rw [mnemonicOf_eq_printTemplate]
  exact asciiText_printTemplate (templateOf_ascii htemplates i) hsep fun t ht =>
    asciiText_of_mem_operandsOf h i _ ht t rfl

/-! ## The default templates put no space at the ends of a mnemonic -/

theorem unpadded_operandTemplate {w : String} {sep a b : Text} (hw : Unpadded w.toList) (ha : Unpadded a)
    (hsep : printableText sep = true) (hb : Unpadded b) :
    Unpadded (printTemplate sep (operandTemplate w) [some a, some b]) := by
  rw [printTemplate_operandTemplate, List.append_assoc]
  exact hw.spaced (ha.join hsep hb)

theorem unpadded_optionalWordTemplate {w : String} {sep b : Text} {a : Option Text} (hw : Unpadded w.toList)
    (ha : ∀ t ∈ a, Unpadded t) (hb : Unpadded b) :
    Unpadded (printTemplate sep (optionalWordTemplate w) [a, some b]) := by
  rw [printTemplate_optionalWordTemplate, List.append_assoc]
  cases a with
  | none => exact hw.spaced hb
  | some t =>
    rw [List.append_assoc]
    exact hw.spaced ((ha t rfl).spaced hb)

theorem unpadded_threeWordTemplate {w : String} {sep a b c : Text} (hw : Unpadded w.toList) (ha : Unpadded a)
    (hb : Unpadded b) (hc : Unpadded c) :
    Unpadded (printTemplate sep (threeWordTemplate w) [some a, some b, some c]) := by
  rw [printTemplate_threeWordTemplate, List.append_assoc]
  exact hw.spaced (ha.spaced (hb.spaced hc))

/-! ## The default tables -/

theorem unpadded_conditionText : ∀ v, ∀ t ∈ conditionText (condTable.entry v), Unpadded t := by decide

theorem unpadded_waitSrc : ∀ v, Unpadded (lookup (waitSrcTable.entry v)) := by decide

/-- The tables of sources and destinations hold words only, unlike those of conditions and operations. -/
theorem unpadded_lookup :
    ∀ t ∈ [inSrcTable, outDstTable, movDstTable, movSrcTable, setDstTable], ∀ v, Unpadded (lookup (t.entry v)) := by
  decide

/-- An operation symbol can be empty, but the source after it is not. -/
theorem unpadded_movSource :
    ∀ op src, Unpadded (lookup (movOpTable.entry op) ++ lookup (movSrcTable.entry src)) := by decide

theorem unpadded_mnemonicOf_defaultParams (i : Instr) : Unpadded (mnemonicOf defaultParams i) := by
  have hsep : printableText defaultParams.sep = true := rfl
  cases i with
  | jmp tail cond addr =>
    exact unpadded_optionalWordTemplate (by decide) (unpadded_conditionText cond) (unpadded_label _)
  | wait tail pol src index =>
    exact unpadded_threeWordTemplate (by decide) (unpadded_dec _) (unpadded_waitSrc src) (unpadded_dec _)
  | in_ tail src bitcount =>
    exact unpadded_operandTemplate (by decide) (unpadded_lookup inSrcTable (by simp) src) hsep (unpadded_dec _)
  | out tail dst bitcount =>
    exact unpadded_operandTemplate (by decide) (unpadded_lookup outDstTable (by simp) dst) hsep (unpadded_dec _)
  | push tail cflag block =>
    exact unpadded_optionalWordTemplate (by decide) (unpadded_ifFullText cflag) (unpadded_blockText block)
  | pull tail cflag block =>
    exact unpadded_optionalWordTemplate (by decide) (unpadded_ifEmptyText cflag) (unpadded_blockText block)
  | mov tail dst op src =>
    exact unpadded_operandTemplate (by decide) (unpadded_lookup movDstTable (by simp) dst) hsep
      (unpadded_movSource op src)
  | irq tail clr wait index =>
    exact unpadded_threeWordTemplate (by decide) (unpadded_irqMode clr wait) (unpadded_dec _) (by decide)
  | set tail dst data =>
    exact unpadded_operandTemplate (by decide) (unpadded_lookup setDstTable (by simp) dst) hsep (unpadded_dec _)

end Sys2Proof.Machine

open Sys2Proof Sys2Proof.Machine

/-- Settles O11. With admissible parameters the template gives the operation and ASCII parts print ASCII; with the
default parameters every operand and every default template is `Unpadded`. -/
theorem storedTextsArePrintableAscii : Obligations.StoredTextsArePrintableAscii := by
  constructor
  · intro p c i h
    obtain ⟨hascii, -, htemplates, -⟩ := params_admissible_iff.1 h
    exact ⟨mnemonicOf_ne_nil htemplates i, mnemonicOf_operation htemplates i, asciiText_mnemonicOf hascii i,
      asciiText_of_printableText (printableText_ssd c i.tail)⟩
  · intro c i
    obtain ⟨hne, hhead, hlast, hprintable⟩ := unpadded_mnemonicOf_defaultParams i
    exact ⟨hne, hhead, hlast, printableText_iff.1 hprintable, printableText_iff.1 (printableText_ssd c i.tail)⟩

end

section
/-! PROOFS. What one step can do, said once: a step of the block or a move of the host, with one constructor for each
way it answers a next state. -/

namespace Sys2Proof.Machine

/-! ## Instructions -/

/-- Without a written configuration no record is stored. -/
theorem storeRecord_of_unwritten {s : State} (h : s.configWritten = false) (m : Text) (target : Option Nat)
    (tail : BitVec 5) : storeRecord m target tail s = .refused .unwrittenConfiguration := by
  simp [storeRecord, readConfig, h]

/-- Under an illegal configuration no record is stored. -/
theorem storeRecord_of_illegal {s : State} (hw : s.configWritten = true) (hl : s.config.legal = false) (m : Text)
    (target : Option Nat) (tail : BitVec 5) : storeRecord m target tail s = .refused .illegalConfiguration := by
  simp [storeRecord, readConfig, hw, hl]

/-! ## Steps of the block -/

/-- PROG[SCAN] is decoded exactly if the list holds a record there. -/
theorem currentRecord_eq_some {s : State} {d : DecodedInstruction} :
    currentRecord s = some d ↔ s.prog[s.scan]? = some (some d) := by
  simp [currentRecord, Option.join_eq_some_iff]

/-- The steps of the block (44_program_disassembler.md R201 to R204): what each phase does below N and at its end. -/
inductive BlockStep (s : State) : State → Prop
  | rest (hphase : s.phase = .idle ∨ s.phase = .done) : BlockStep s s
  | decode (w : Word) (hphase : s.phase = .decode) (hlt : s.scan < s.n)
      (hword : Memory.readWord s.wmem s.scan = some w) (hready : ConfigReady s) :
      BlockStep s (putRecord (decodeRecord s.params s.config w) s)
  | decodeEnd (hphase : s.phase = .decode) (hge : s.n ≤ s.scan) : BlockStep s (enterPhase .collect s)
  | collect (d : DecodedInstruction) (hphase : s.phase = .collect) (hlt : s.scan < s.n)
      (hrecord : s.prog[s.scan]? = some (some d)) : BlockStep s (putTarget d.target s)
  | collectEnd (hphase : s.phase = .collect) (hge : s.n ≤ s.scan) : BlockStep s (enterPhase .emit s)
  | emit (d : DecodedInstruction) (hphase : s.phase = .emit) (hlt : s.scan < s.n)
      (hrecord : s.prog[s.scan]? = some (some d)) : BlockStep s (putEmission d s)
  | emitEnd (hphase : s.phase = .emit) (hge : s.n ≤ s.scan) : BlockStep s (endRun s)

/-- The DECODE step below N. -/
theorem decodeStep_eq_next_of_lt {s t : State} (hlt : s.scan < s.n) :
    decodeStep s = .next t ↔
      ConfigReady s ∧ ∃ w, Memory.readWord s.wmem s.scan = some w ∧
        t = putRecord (decodeRecord s.params s.config w) s := by
  unfold decodeStep
  rw [if_pos hlt]
  cases hf : fetch s with
  | ok i =>
    obtain ⟨w, hw, rfl⟩ := fetch_eq_ok.1 hf
    simp [exec_eq_next, hw, ConfigReady, decodeRecord, and_assoc]
  | error f =>
    obtain ⟨hw, -⟩ := fetch_eq_error.1 hf
    simp [hw]

/-- The COLLECT step below N. -/
theorem collectStep_eq_next_of_lt {s t : State} (hlt : s.scan < s.n) :
    collectStep s = .next t ↔ ∃ d, s.prog[s.scan]? = some (some d) ∧ t = putTarget d.target s := by
  unfold collectStep
  rw [if_pos hlt]
  simp only [← currentRecord_eq_some]
  cases currentRecord s <;> simp [eq_comm]

/-- The EMIT step below N. -/
theorem emitStep_eq_next_of_lt {s t : State} (hlt : s.scan < s.n) :
    emitStep s = .next t ↔ ∃ d, s.prog[s.scan]? = some (some d) ∧ t = putEmission d s := by
  unfold emitStep
  rw [if_pos hlt]
  simp only [← currentRecord_eq_some]
  cases currentRecord s <;> simp [eq_comm]

/-- At N a phase of the sweep hands over to the next. -/
theorem decodeStep_of_ge {s : State} (hge : s.n ≤ s.scan) : decodeStep s = .next (enterPhase .collect s) :=
  if_neg (Nat.not_lt.2 hge)

theorem collectStep_of_ge {s : State} (hge : s.n ≤ s.scan) : collectStep s = .next (enterPhase .emit s) :=
  if_neg (Nat.not_lt.2 hge)

theorem emitStep_of_ge {s : State} (hge : s.n ≤ s.scan) : emitStep s = .next (endRun s) :=
  if_neg (Nat.not_lt.2 hge)

theorem blockStep_of_coreStep {s t : State} (h : coreStep s = .next t) : BlockStep s t := by
  rw [coreStep_eq] at h
  cases hphase : s.phase with
  | idle =>
    obtain rfl : s = t := by simpa [hphase] using h
    exact .rest (.inl hphase)
  | done =>
    obtain rfl : s = t := by simpa [hphase] using h
    exact .rest (.inr hphase)
  | decode =>
    replace h : decodeStep s = .next t := by simpa [hphase] using h
    rcases Nat.lt_or_ge s.scan s.n with hlt | hge
    · obtain ⟨hready, w, hw, rfl⟩ := (decodeStep_eq_next_of_lt hlt).1 h
      exact .decode w hphase hlt hw hready
    · cases (decodeStep_of_ge hge).symm.trans h
      exact .decodeEnd hphase hge
  | collect =>
    replace h : collectStep s = .next t := by simpa [hphase] using h
    rcases Nat.lt_or_ge s.scan s.n with hlt | hge
    · obtain ⟨d, hd, rfl⟩ := (collectStep_eq_next_of_lt hlt).1 h
      exact .collect d hphase hlt hd
    · cases (collectStep_of_ge hge).symm.trans h
      exact .collectEnd hphase hge
  | emit =>
    replace h : emitStep s = .next t := by simpa [hphase] using h
    rcases Nat.lt_or_ge s.scan s.n with hlt | hge
    · obtain ⟨d, hd, rfl⟩ := (emitStep_eq_next_of_lt hlt).1 h
      exact .emit d hphase hlt hd
    · cases (emitStep_of_ge hge).symm.trans h
      exact .emitEnd hphase hge

theorem coreStep_of_blockStep {s t : State} (h : BlockStep s t) : coreStep s = .next t := by
  rw [coreStep_eq]
  cases h with
  | rest hphase => rcases hphase with hphase | hphase <;> simp [hphase]
  | decode w hphase hlt hw hready => simpa [hphase] using (decodeStep_eq_next_of_lt hlt).2 ⟨hready, w, hw, rfl⟩
  | decodeEnd hphase hge => simpa [hphase] using decodeStep_of_ge hge
  | collect d hphase hlt hd => simpa [hphase] using (collectStep_eq_next_of_lt hlt).2 ⟨d, hd, rfl⟩
  | collectEnd hphase hge => simpa [hphase] using collectStep_of_ge hge
  | emit d hphase hlt hd => simpa [hphase] using (emitStep_eq_next_of_lt hlt).2 ⟨d, hd, rfl⟩
  | emitEnd hphase hge => simpa [hphase] using emitStep_of_ge hge

/-- `BlockStep` is the block's own step where it answers a next state. -/
theorem coreStep_eq_next {s t : State} : coreStep s = .next t ↔ BlockStep s t :=
  ⟨blockStep_of_coreStep, coreStep_of_blockStep⟩

/-! ## Moves of the host -/

/-- What a host move does (70_reset_and_hazards.md R258): a load and a start have two outcomes each. -/
inductive HostStep (s : State) : HostMove → State → Prop
  | reset : HostStep s .reset (applyReset s)
  | writeWidth (w : BitVec 3) (hidle : s.phase = .idle) : HostStep s (.writeWidth w) (writeCfgWidth w s)
  | writeEn (e : Bool) (hidle : s.phase = .idle) : HostStep s (.writeEn e) (writeCfgEn e s)
  | loadBytes (bytes : List Byte) (hidle : s.phase = .idle) (heven : inputShapeOk bytes = true) :
      HostStep s (.loadBytes bytes) { s with n := bytes.length / 2, wmem := Memory.ofBytes bytes }
  | loadOddBytes (bytes : List Byte) (hidle : s.phase = .idle) (hodd : inputShapeOk bytes = false) :
      HostStep s (.loadBytes bytes) (raiseShape s)
  | loadWords (ws : List Word) (hidle : s.phase = .idle) : HostStep s (.loadWords ws) (loadWords ws s)
  | start (henabled : startEnabled s = true) : HostStep s .start (beginRun s)
  | startIgnored (hdisabled : startEnabled s = false) : HostStep s .start s

/-- `HostStep` is the host's move where it answers a next state. -/
theorem hostMove_eq_next {m : HostMove} {s t : State} : hostMove m s = .next t ↔ HostStep s m t := by
  constructor
  · intro h
    cases m with
    | reset => cases h; exact .reset
    | writeWidth w =>
      obtain ⟨hidle, rfl⟩ := onlyInIdle_eq_next.1 h
      exact .writeWidth w hidle
    | writeEn e =>
      obtain ⟨hidle, rfl⟩ := onlyInIdle_eq_next.1 h
      exact .writeEn e hidle
    | loadBytes bytes =>
      obtain ⟨hidle, rfl⟩ := onlyInIdle_eq_next.1 h
      rcases loadBytes_cases bytes s with ⟨heven, heq⟩ | ⟨hodd, heq⟩ <;> rw [heq]
      · exact .loadBytes bytes hidle heven
      · exact .loadOddBytes bytes hidle hodd
    | loadWords ws =>
      obtain ⟨hidle, rfl⟩ := onlyInIdle_eq_next.1 h
      exact .loadWords ws hidle
    | start =>
      cases h
      cases hs : startEnabled s with
      | true => simpa [startRun, hs] using HostStep.start hs
      | false => simpa [startRun, hs] using HostStep.startIgnored hs
  · intro h
    cases h with
    | reset => rfl
    | writeWidth w hidle => exact onlyInIdle_eq_next.2 ⟨hidle, rfl⟩
    | writeEn e hidle => exact onlyInIdle_eq_next.2 ⟨hidle, rfl⟩
    | loadBytes bytes hidle heven => exact onlyInIdle_eq_next.2 ⟨hidle, by simp [loadBytes, heven]⟩
    | loadOddBytes bytes hidle hodd => exact onlyInIdle_eq_next.2 ⟨hidle, by simp [loadBytes, hodd]⟩
    | loadWords ws hidle => exact onlyInIdle_eq_next.2 ⟨hidle, rfl⟩
    | start henabled => simp [hostMove, startRun, henabled]
    | startIgnored hdisabled => simp [hostMove, startRun, hdisabled]

/-! ## Steps of the machine -/

/-- The host's move in the coming step, if it makes one. -/
def nextMove (s : State) : Option HostMove := s.hostMoves.head?.join

/-- The state with the host's entry for this step used up (log entry 3). -/
def useEntry (s : State) : State := { s with hostMoves := s.hostMoves.tail }

theorem nextMove_eq_some {s : State} {m : HostMove} :
    nextMove s = some m ↔ s.hostMoves = some m :: s.hostMoves.tail := by
  unfold nextMove
  rcases s.hostMoves with _ | ⟨e, rest⟩ <;> simp

theorem nextMoveIsReset_iff {s : State} : nextMoveIsReset s = true ↔ nextMove s = some .reset := by
  unfold nextMoveIsReset nextMove
  rcases s.hostMoves with _ | ⟨_ | m, rest⟩
  · simp
  · simp
  · cases m <;> simp

/-- The host moves if its next entry is a move, else the block does. -/
theorem step_eq (s : State) : step s = (nextMove s).elim (coreStep (useEntry s)) (hostMove · (useEntry s)) := by
  obtain ⟨_, _, _, _, _, _, _, _, _, _, _, _, _, moves⟩ := s
  rcases moves with _ | ⟨_ | m, rest⟩ <;> rfl

/-- Everything a step can do where it answers a next state. -/
theorem step_eq_next {s t : State} :
    step s = .next t ↔
      (nextMove s = none ∧ BlockStep (useEntry s) t) ∨ ∃ m, nextMove s = some m ∧ HostStep (useEntry s) m t := by
  rw [step_eq]
  cases nextMove s with
  | none => simp [coreStep_eq_next]
  | some m => simp [hostMove_eq_next]

end Sys2Proof.Machine
end

section
/-! PROOFS. The invariant: what it says phase by phase, and that each step of the block and each move of the host
keeps it. -/

namespace Sys2Proof.Machine

/-! ## The invariant in each phase -/

section Phases

variable {s : State}

theorem inv_idle_iff (h : s.phase = .idle) : Inv s ↔ MemoryHoldsProgram s ∧ IdleInv s := by
  unfold Inv PhaseInv
  rw [h]
  exact ⟨fun ⟨hmem, _, hidle⟩ => ⟨hmem, hidle⟩, fun ⟨hmem, hidle⟩ => ⟨hmem, by simp [hidle.1], hidle⟩⟩

theorem inv_decode_iff (h : s.phase = .decode) :
    Inv s ↔ MemoryHoldsProgram s ∧ s.scan ≤ s.n ∧ RunStarted s ∧ DecodeInv s := by
  unfold Inv PhaseInv
  rw [h]

theorem inv_collect_iff (h : s.phase = .collect) :
    Inv s ↔ MemoryHoldsProgram s ∧ s.scan ≤ s.n ∧ RunStarted s ∧ CollectInv s := by
  unfold Inv PhaseInv
  rw [h]

theorem inv_emit_iff (h : s.phase = .emit) :
    Inv s ↔ MemoryHoldsProgram s ∧ s.scan ≤ s.n ∧ RunStarted s ∧ EmitInv s := by
  unfold Inv PhaseInv
  rw [h]

theorem inv_done_iff (h : s.phase = .done) :
    Inv s ↔ MemoryHoldsProgram s ∧ s.scan ≤ s.n ∧ RunStarted s ∧ DoneInv s := by
  unfold Inv PhaseInv
  rw [h]

end Phases

/-! ## One more element of the program -/

/-- Storing the next record of a program that is decoded below `k`. -/
theorem set_decodedBelow {α : Type} {ds : List α} {n k : Nat} {d : α} (hlen : ds.length = n) (hd : ds[k]? = some d) :
    ((ds.take k).map some ++ List.replicate (n - k) none).set k (some d) =
      (ds.take (k + 1)).map some ++ List.replicate (n - (k + 1)) none := by
  obtain ⟨hk, -⟩ := List.getElem?_eq_some_iff.1 hd
  have hrest : n - k = (n - (k + 1)) + 1 := by omega
  have htake : ((ds.take k).map some).length = k := by simp [hk.le]
  rw [hrest, List.replicate_succ, List.set_append_right _ _ htake.le, htake, Nat.sub_self, List.set_cons_zero,
    List.take_add_one, hd]
  simp

/-- The record of a word that WMEM holds is the program's at that address. -/
theorem MemoryHoldsProgram.programFor_getElem? {s : State} {w : Word} {a : Nat} (h : MemoryHoldsProgram s)
    (hw : Memory.readWord s.wmem a = some w) : (programFor s)[a]? = some (decodeRecord s.params s.config w) := by
  rw [h.readWord_eq] at hw
  simp [programFor, programOf, hw]

/-- A decoded entry of PROG is the program's record. -/
theorem programFor_of_prog {s : State} {d : DecodedInstruction} {a : Nat} (hprog : s.prog = (programFor s).map some)
    (hd : s.prog[a]? = some (some d)) : (programFor s)[a]? = some d := by
  simpa [hprog] using hd

/-- A program is taken whole at N. -/
theorem MemoryHoldsProgram.take_programFor {s : State} (h : MemoryHoldsProgram s) :
    (programFor s).take s.n = programFor s :=
  List.take_of_length_le h.programFor_length.le

/-- One more record in the emission stream. -/
theorem emissionOf_take_succ (ref : List Nat) {ds : List DecodedInstruction} {d : DecodedInstruction} {k : Nat}
    (hd : ds[k]? = some d) : emissionOf ref (ds.take (k + 1)) = emissionOf ref (ds.take k) ++ recordsOf ref k d := by
  obtain ⟨hk, -⟩ := List.getElem?_eq_some_iff.1 hd
  rw [List.take_add_one, hd]
  simp [emissionOf, emissionFrom_append, emissionFrom, Nat.min_eq_left hk.le]

/-! ## Reset and the host -/

/-- The reset of a block, whatever its constants and the host's further moves. -/
theorem inv_applyReset (s : State) : Inv (applyReset s) :=
  (inv_idle_iff rfl).2 ⟨rfl, rfl, rfl, rfl, rfl⟩

/-- A load of words. -/
theorem memoryHoldsProgram_loadWords (ws : List Word) (s : State) : MemoryHoldsProgram (loadWords ws s) :=
  memoryHoldsProgram_of_ofBytes rfl (by simp [bytesOfWords, wordBytes, List.length_flatMap, Nat.mul_comm])

/-- In IDLE the program in word memory may be exchanged. -/
theorem inv_of_idle_load {s t : State} (hinv : Inv s) (hidle : s.phase = .idle) (hmem : MemoryHoldsProgram t)
    (ht : t = { s with n := t.n, wmem := t.wmem }) : Inv t := by
  obtain ⟨-, hempty⟩ := (inv_idle_iff hidle).1 hinv
  have hidle' : t.phase = .idle := by rw [ht]; exact hidle
  have hempty' : IdleInv t := by rw [ht]; exact hempty
  exact (inv_idle_iff hidle').2 ⟨hmem, hempty'⟩

/-- A run begins with N empty entries. -/
theorem inv_beginRun {s : State} (hinv : Inv s) (henabled : startEnabled s = true) : Inv (beginRun s) := by
  obtain ⟨hidle, herr, hlegal, hwritten⟩ := startEnabled_iff.1 henabled
  obtain ⟨hmem, -⟩ := (inv_idle_iff hidle).1 hinv
  exact (inv_decode_iff rfl).2 ⟨hmem, Nat.zero_le _, ⟨⟨hwritten, hlegal⟩, herr⟩, by simp [DecodeInv]⟩

theorem inv_of_hostStep {s t : State} {m : HostMove} (hinv : Inv s) (h : HostStep s m t) : Inv t := by
  cases h with
  | reset => exact inv_applyReset s
  | writeWidth w hidle => exact (inv_idle_iff (s := writeCfgWidth w s) hidle).2 ((inv_idle_iff hidle).1 hinv)
  | writeEn e hidle => exact (inv_idle_iff (s := writeCfgEn e s) hidle).2 ((inv_idle_iff hidle).1 hinv)
  | loadBytes bytes hidle heven =>
    have hlen : bytes.length % 2 = 0 := by simpa [inputShapeOk] using heven
    exact inv_of_idle_load hinv hidle (memoryHoldsProgram_of_ofBytes rfl (Nat.mul_div_cancel' (by omega))) rfl
  | loadOddBytes bytes hidle hodd => exact (inv_idle_iff (s := raiseShape s) hidle).2 ((inv_idle_iff hidle).1 hinv)
  | loadWords ws hidle => exact inv_of_idle_load hinv hidle (memoryHoldsProgram_loadWords ws s) rfl
  | start henabled => exact inv_beginRun hinv henabled
  | startIgnored hdisabled => exact hinv

/-! ## The block -/

section Block

variable {s : State}

/-- In DECODE one more entry is decoded. -/
theorem inv_putRecord {w : Word} (hinv : Inv s) (hphase : s.phase = .decode) (hlt : s.scan < s.n)
    (hw : Memory.readWord s.wmem s.scan = some w) : Inv (putRecord (decodeRecord s.params s.config w) s) := by
  obtain ⟨hmem, -, hrun, hprog, hempty⟩ := (inv_decode_iff hphase).1 hinv
  have hd := hmem.programFor_getElem? hw
  refine (inv_decode_iff (s := putRecord _ s) hphase).2 ⟨hmem, hlt, hrun, ?_, hempty⟩
  rw [putRecord_prog, hprog]
  exact set_decodedBelow hmem.programFor_length hd

/-- At N the program is decoded. -/
theorem inv_enterCollect (hinv : Inv s) (hphase : s.phase = .decode) (hge : s.n ≤ s.scan) :
    Inv (enterPhase .collect s) := by
  obtain ⟨hmem, hle, hrun, hprog, href, hout⟩ := (inv_decode_iff hphase).1 hinv
  refine (inv_collect_iff rfl).2 ⟨hmem, Nat.zero_le _, hrun, ?_, href, hout⟩
  calc s.prog
      = ((programFor s).take s.n).map some ++ List.replicate (s.n - s.n) none := by
        rw [hprog, Nat.le_antisymm hle hge]
    _ = (programFor s).map some := by simp [hmem.take_programFor]

/-- In COLLECT one more target is collected. -/
theorem inv_putTarget {d : DecodedInstruction} (hinv : Inv s) (hphase : s.phase = .collect) (hlt : s.scan < s.n)
    (hd : s.prog[s.scan]? = some (some d)) : Inv (putTarget d.target s) := by
  obtain ⟨hmem, -, hrun, hprog, href, hout⟩ := (inv_collect_iff hphase).1 hinv
  refine (inv_collect_iff (s := putTarget _ s) hphase).2 ⟨hmem, hlt, hrun, hprog, ?_, hout⟩
  have hsnoc : (programFor s).take (s.scan + 1) = (programFor s).take s.scan ++ [d] := by
    rw [List.take_add_one, programFor_of_prog hprog hd]
    rfl
  calc collectTarget s.ref d.target
      = collectTarget (referencesOf ((programFor s).take s.scan)) d.target := by rw [href]
    _ = referencesOf ((programFor s).take (s.scan + 1)) := by rw [hsnoc, referencesOf_snoc]

/-- At N all targets are collected. -/
theorem inv_enterEmit (hinv : Inv s) (hphase : s.phase = .collect) (hge : s.n ≤ s.scan) :
    Inv (enterPhase .emit s) := by
  obtain ⟨hmem, hle, hrun, hprog, href, hout⟩ := (inv_collect_iff hphase).1 hinv
  rw [Nat.le_antisymm hle hge, hmem.take_programFor] at href
  exact (inv_emit_iff rfl).2 ⟨hmem, Nat.zero_le _, hrun, hprog, href, hout⟩

/-- In EMIT one more address is emitted. -/
theorem inv_putEmission {d : DecodedInstruction} (hinv : Inv s) (hphase : s.phase = .emit) (hlt : s.scan < s.n)
    (hd : s.prog[s.scan]? = some (some d)) : Inv (putEmission d s) := by
  obtain ⟨hmem, -, hrun, hprog, href, hout⟩ := (inv_emit_iff hphase).1 hinv
  refine (inv_emit_iff (s := putEmission _ s) hphase).2 ⟨hmem, hlt, hrun, hprog, href, ?_⟩
  calc s.out ++ recordsOf s.ref s.scan d
      = emissionOf (referencesFor s) ((programFor s).take s.scan) ++ recordsOf (referencesFor s) s.scan d := by
        rw [hout, href]
    _ = emissionOf (referencesFor s) ((programFor s).take (s.scan + 1)) :=
        (emissionOf_take_succ _ (programFor_of_prog hprog hd)).symm

/-- At N the stream is complete. -/
theorem inv_endRun (hinv : Inv s) (hphase : s.phase = .emit) (hge : s.n ≤ s.scan) : Inv (endRun s) := by
  obtain ⟨hmem, hle, hrun, hprog, href, hout⟩ := (inv_emit_iff hphase).1 hinv
  have hscan := Nat.le_antisymm hle hge
  rw [hscan, hmem.take_programFor] at hout
  exact (inv_done_iff rfl).2 ⟨hmem, hle, hrun, hscan, hprog, href, hout⟩

theorem inv_of_blockStep {t : State} (hinv : Inv s) (h : BlockStep s t) : Inv t := by
  cases h with
  | rest => exact hinv
  | decode w hphase hlt hw => exact inv_putRecord hinv hphase hlt hw
  | decodeEnd hphase hge => exact inv_enterCollect hinv hphase hge
  | collect d hphase hlt hd => exact inv_putTarget hinv hphase hlt hd
  | collectEnd hphase hge => exact inv_enterEmit hinv hphase hge
  | emit d hphase hlt hd => exact inv_putEmission hinv hphase hlt hd
  | emitEnd hphase hge => exact inv_endRun hinv hphase hge

end Block

/-! ## REF under the invariant -/

/-- Keeping first occurrences leaves no duplicates. -/
theorem nodup_dedupFirst (ts : List Nat) : (dedupFirst ts).Nodup := by
  induction ts with
  | nil => exact List.nodup_nil
  | cons t ts ih => exact List.nodup_cons.2 ⟨by simp, ih.filter _⟩

/-- The references of a part of a program are distinct addresses below 32. -/
theorem refWellFormed_referencesOf {p : Params} {c : SidesetConfig} {ws : List Word} {ds : List DecodedInstruction}
    (hsub : ds ⊆ programOf p c ws) : RefWellFormed (referencesOf ds) := by
  refine ⟨nodup_dedupFirst _, fun a ha => ?_⟩
  obtain ⟨d, hd, htarget⟩ := List.mem_filterMap.1 ((mem_dedupFirst _ a).1 ha)
  obtain ⟨w, -, rfl⟩ := List.mem_map.1 (hsub hd)
  exact targetOf_lt htarget

/-- In every phase REF holds the references of the program's first words, in IDLE and DECODE of none. -/
theorem Inv.exists_ref_eq {s : State} (hinv : Inv s) : ∃ k, s.ref = referencesOf ((programFor s).take k) := by
  cases hphase : s.phase with
  | idle =>
    obtain ⟨-, -, -, href, -⟩ := (inv_idle_iff hphase).1 hinv
    exact ⟨0, href⟩
  | decode =>
    obtain ⟨-, -, -, -, href, -⟩ := (inv_decode_iff hphase).1 hinv
    exact ⟨0, href⟩
  | collect =>
    obtain ⟨-, -, -, -, href, -⟩ := (inv_collect_iff hphase).1 hinv
    exact ⟨s.scan, href⟩
  | emit =>
    obtain ⟨hmem, -, -, -, href, -⟩ := (inv_emit_iff hphase).1 hinv
    exact ⟨s.n, by rw [href, hmem.take_programFor, referencesFor]⟩
  | done =>
    obtain ⟨hmem, -, -, -, -, href, -⟩ := (inv_done_iff hphase).1 hinv
    exact ⟨s.n, by rw [href, hmem.take_programFor, referencesFor]⟩

/-- Distinct addresses below 32 are at most 32. -/
theorem RefWellFormed.length_le {ref : List Nat} (h : RefWellFormed ref) : ref.length ≤ 32 := by
  obtain ⟨hnodup, hlt⟩ := h
  have hsub : ref ⊆ List.range 32 := fun a ha => List.mem_range.2 (hlt a ha)
  simpa using (hnodup.subperm hsub).length_le

end Sys2Proof.Machine

open Sys2Proof.Machine

/-- Settles O38: the host's entry is used up, then a step of the block or a move of the host keeps the invariant. -/
theorem everyStepKeepsTheInvariant : Obligations.EveryStepKeepsTheInvariant := by
  intro s t hinv hstep
  have hused : Inv (useEntry s) := inv_hostMoves.2 hinv
  rcases step_eq_next.1 hstep with ⟨-, hblock⟩ | ⟨m, -, hhost⟩
  · exact inv_of_blockStep hused hblock
  · exact inv_of_hostStep hused hhost

/-- Settles O40: REF holds the references of a part of the program. -/
theorem referencesStayDistinctAndBelow32 : Obligations.ReferencesStayDistinctAndBelow32 := by
  intro s hinv
  obtain ⟨k, href⟩ := hinv.exists_ref_eq
  have hwf : RefWellFormed s.ref := href ▸ refWellFormed_referencesOf (List.take_subset k (programFor s))
  exact ⟨hwf, hwf.length_le⟩

/-- Settles O37. -/
theorem resetMeetsTheInvariant : Obligations.ResetMeetsTheInvariant :=
  inv_applyReset State.reset

end

section
/-! PROOFS. Frames of the instructions and of the steps, and reset. -/

namespace Sys2Proof.Machine

/-! ## What no step changes during a run -/

/-- From `s` to `t` the configuration, its written bits, N and word memory are as before. -/
def SameInput (s t : State) : Prop :=
  t.cfgWidth = s.cfgWidth ∧ t.cfgEn = s.cfgEn ∧ t.cfgWidthWritten = s.cfgWidthWritten ∧
    t.cfgEnWritten = s.cfgEnWritten ∧ t.n = s.n ∧ t.wmem = s.wmem

theorem sameInput_refl (s : State) : SameInput s s := ⟨rfl, rfl, rfl, rfl, rfl, rfl⟩

theorem sameInput_of_blockStep {s t : State} (h : BlockStep s t) : SameInput s t := by
  cases h <;> exact ⟨rfl, rfl, rfl, rfl, rfl, rfl⟩

/-- Outside IDLE the host has no move on the input but reset. -/
theorem sameInput_of_hostStep {s t : State} {m : HostMove} (hphase : s.phase ≠ .idle) (hm : m ≠ .reset)
    (h : HostStep s m t) : SameInput s t := by
  cases h with
  | reset => exact absurd rfl hm
  | start henabled => exact absurd (startEnabled_iff.1 henabled).1 hphase
  | startIgnored => exact sameInput_refl s
  | writeWidth _ hidle | writeEn _ hidle | loadBytes _ hidle | loadOddBytes _ hidle | loadWords _ hidle =>
    exact absurd hidle hphase

theorem params_of_blockStep {s t : State} (h : BlockStep s t) : t.params = s.params := by
  cases h <;> rfl

theorem params_of_hostStep {s t : State} {m : HostMove} (h : HostStep s m t) : t.params = s.params := by
  cases h <;> rfl

/-! ## Phase changes -/

/-- A host move changes the phase by reset and by an enabled start only. -/
theorem phase_of_hostStep {s t : State} {m : HostMove} (h : HostStep s m t) :
    t.phase = s.phase ∨ (m = .reset ∧ t.phase = .idle) ∨
      (m = .start ∧ t.phase = .decode ∧ startEnabled s = true) := by
  cases h with
  | reset => exact .inr (.inl ⟨rfl, rfl⟩)
  | start henabled => exact .inr (.inr ⟨rfl, rfl, henabled⟩)
  | writeWidth | writeEn | loadBytes | loadOddBytes | loadWords | startIgnored => exact .inl rfl

/-- The block changes the phase at N only. -/
theorem phase_of_blockStep {s t : State} (h : BlockStep s t) :
    t.phase = s.phase ∨ (s.n ≤ s.scan ∧
      ((s.phase = .decode ∧ t.phase = .collect) ∨ (s.phase = .collect ∧ t.phase = .emit) ∨
        (s.phase = .emit ∧ t.phase = .done))) := by
  cases h with
  | decodeEnd hphase hge => exact .inr ⟨hge, .inl ⟨hphase, rfl⟩⟩
  | collectEnd hphase hge => exact .inr ⟨hge, .inr (.inl ⟨hphase, rfl⟩)⟩
  | emitEnd hphase hge => exact .inr ⟨hge, .inr (.inr ⟨hphase, rfl⟩)⟩
  | rest | decode | collect | emit => exact .inl rfl

/-! ## Unwritten registers -/

/-- The state with other contents of the configuration registers. -/
def State.withConfig (c : SidesetConfig) (s : State) : State := { s with cfgWidth := c.width, cfgEn := c.en }

/-- From `s` to `t` the configuration registers and their written bits are as before. -/
def SameConfig (s t : State) : Prop :=
  t.config = s.config ∧ t.cfgWidthWritten = s.cfgWidthWritten ∧ t.cfgEnWritten = s.cfgEnWritten

/-- No start is enabled under an unwritten configuration (70_reset_and_hazards.md R252). -/
theorem startEnabled_of_unwritten {s : State} (h : s.configWritten = false) : startEnabled s = false := by
  simp [startEnabled, h]

/-- In IDLE the block rests. -/
theorem BlockStep.eq_of_idle {s t : State} (h : BlockStep s t) (hidle : s.phase = .idle) : t = s := by
  cases h with
  | rest => rfl
  | decode _ hphase | decodeEnd hphase | collect _ hphase | collectEnd hphase | emit _ hphase | emitEnd hphase =>
    simp [hidle] at hphase

/-- In IDLE, with a register unwritten, a step resets, writes one register, or stays in IDLE without reading or
changing either. -/
theorem step_of_idle_of_unwritten {s t : State} (hidle : s.phase = .idle) (hunwritten : s.configWritten = false)
    (hstep : step s = .next t) :
    (nextMove s = some .reset ∧ t = applyReset (useEntry s)) ∨
      (∃ w, nextMove s = some (.writeWidth w) ∧ t = writeCfgWidth w (useEntry s)) ∨
      (∃ e, nextMove s = some (.writeEn e) ∧ t = writeCfgEn e (useEntry s)) ∨
      (t.phase = .idle ∧ SameConfig s t ∧ ∀ c, step (s.withConfig c) = .next (t.withConfig c)) := by
  simp only [step_eq_next]
  have hdisabled (c : SidesetConfig) : startEnabled (useEntry (s.withConfig c)) = false :=
    startEnabled_of_unwritten hunwritten
  rcases step_eq_next.1 hstep with ⟨hm, hblock⟩ | ⟨m, hm, hhost⟩
  · obtain rfl := hblock.eq_of_idle hidle
    exact .inr (.inr (.inr ⟨hidle, ⟨rfl, rfl, rfl⟩, fun _ => .inl ⟨hm, .rest (.inl hidle)⟩⟩))
  · cases hhost with
    | reset => exact .inl ⟨hm, rfl⟩
    | writeWidth w => exact .inr (.inl ⟨w, hm, rfl⟩)
    | writeEn e => exact .inr (.inr (.inl ⟨e, hm, rfl⟩))
    | loadBytes bytes _ heven =>
      exact .inr (.inr (.inr ⟨hidle, ⟨rfl, rfl, rfl⟩, fun _ => .inr ⟨_, hm, .loadBytes bytes hidle heven⟩⟩))
    | loadOddBytes bytes _ hodd =>
      exact .inr (.inr (.inr ⟨hidle, ⟨rfl, rfl, rfl⟩, fun _ => .inr ⟨_, hm, .loadOddBytes bytes hidle hodd⟩⟩))
    | loadWords ws =>
      exact .inr (.inr (.inr ⟨hidle, ⟨rfl, rfl, rfl⟩, fun _ => .inr ⟨_, hm, .loadWords ws hidle⟩⟩))
    | start henabled => exact absurd (hdisabled s.config) (ne_false_of_eq_true henabled)
    | startIgnored =>
      exact .inr (.inr (.inr ⟨hidle, ⟨rfl, rfl, rfl⟩, fun c => .inr ⟨_, hm, .startIgnored (hdisabled c)⟩⟩))

/-- While CFG_WIDTH is unwritten, a step carries its contents along or discards them. -/
theorem step_of_width_unwritten {s t : State} (hidle : s.phase = .idle) (hunwritten : s.cfgWidthWritten = false)
    (hstep : step s = .next t) (w : BitVec 3) :
    step { s with cfgWidth := w } = .next t ∨
      (t.cfgWidthWritten = false ∧ t.phase = .idle ∧
        step { s with cfgWidth := w } = .next { t with cfgWidth := w }) := by
  rcases step_of_idle_of_unwritten hidle (by simp [State.configWritten, hunwritten]) hstep with
    ⟨hm, rfl⟩ | ⟨v, hm, rfl⟩ | ⟨e, hm, rfl⟩ | ⟨hphase, ⟨hconfig, hwritten, -⟩, hcarry⟩
  · exact .inl (step_eq_next.2 (.inr ⟨_, hm, .reset⟩))
  · exact .inl (step_eq_next.2 (.inr ⟨_, hm, .writeWidth v hidle⟩))
  · exact .inr ⟨hunwritten, hidle, step_eq_next.2 (.inr ⟨_, hm, .writeEn e hidle⟩)⟩
  · have hen : s.cfgEn = t.cfgEn := congrArg SidesetConfig.en hconfig.symm
    exact .inr ⟨hwritten.trans hunwritten, hphase, (hcarry ⟨w, s.cfgEn⟩).trans (by rw [hen]; rfl)⟩

/-- While CFG_EN is unwritten, a step carries its contents along or discards them. -/
theorem step_of_en_unwritten {s t : State} (hidle : s.phase = .idle) (hunwritten : s.cfgEnWritten = false)
    (hstep : step s = .next t) (e : Bool) :
    step { s with cfgEn := e } = .next t ∨
      (t.cfgEnWritten = false ∧ t.phase = .idle ∧ step { s with cfgEn := e } = .next { t with cfgEn := e }) := by
  rcases step_of_idle_of_unwritten hidle (by simp [State.configWritten, hunwritten]) hstep with
    ⟨hm, rfl⟩ | ⟨v, hm, rfl⟩ | ⟨e, hm, rfl⟩ | ⟨hphase, ⟨hconfig, -, hwritten⟩, hcarry⟩
  · exact .inl (step_eq_next.2 (.inr ⟨_, hm, .reset⟩))
  · exact .inr ⟨hunwritten, hidle, step_eq_next.2 (.inr ⟨_, hm, .writeWidth v hidle⟩)⟩
  · exact .inl (step_eq_next.2 (.inr ⟨_, hm, .writeEn e hidle⟩))
  · have hwidth : s.cfgWidth = t.cfgWidth := congrArg SidesetConfig.width hconfig.symm
    exact .inr ⟨hwritten.trans hunwritten, hphase, (hcarry ⟨s.cfgWidth, e⟩).trans (by rw [hwidth]; rfl)⟩

end Sys2Proof.Machine

open Sys2Proof Sys2Proof.Machine

/-- Settles O25: an instruction that completes stores its record, and `putRecord` sets one entry of PROG. -/
theorem instructionsChangeOnlyTheRecordAndScan : Obligations.InstructionsChangeOnlyTheRecordAndScan := by
  intro i s t hexec
  obtain ⟨-, -, rfl⟩ := exec_eq_next.1 hexec
  exact ⟨rfl, List.length_set, fun b hb => List.getElem?_set_ne hb.symm, fun _ => rfl, rfl, rfl, rfl, rfl, rfl, rfl,
    rfl, rfl, rfl, rfl, rfl⟩

/-- Settles O26: every instruction is `storeRecord`, which stops by reading the configuration only. -/
theorem instructionsStopOnlyWithoutConfiguration : Obligations.InstructionsStopOnlyWithoutConfiguration := by
  intro i s
  refine ⟨fun hw => ?_, fun hw hl => ?_, fun hw hl => ⟨_, exec_eq_next.2 ⟨hw, hl, rfl⟩⟩⟩
  · rw [exec_eq_storeRecord, storeRecord_of_unwritten hw]
  · rw [exec_eq_storeRecord, storeRecord_of_illegal hw hl]

/-- Settles O33: the host's phase changes are reset and start, the block's are those at N, where SCAN is N. -/
theorem phasesChangeOnlyInOrder : Obligations.PhasesChangeOnlyInOrder := by
  intro s t hle hstep hne
  rcases step_eq_next.1 hstep with ⟨-, hblock⟩ | ⟨m, hm, hhost⟩
  · rcases phase_of_blockStep hblock with hsame | ⟨hge, hchange⟩
    · exact absurd hsame hne
    · have hscan : s.scan = s.n := Nat.le_antisymm hle hge
      rcases hchange with ⟨hs, ht⟩ | ⟨hs, ht⟩ | ⟨hs, ht⟩
      · exact .inr (.inr (.inl ⟨hs, ht, hscan⟩))
      · exact .inr (.inr (.inr (.inl ⟨hs, ht, hscan⟩)))
      · exact .inr (.inr (.inr (.inr ⟨hs, ht, hscan⟩)))
  · rcases phase_of_hostStep hhost with hsame | ⟨rfl, ht⟩ | ⟨rfl, ht, henabled⟩
    · exact absurd hsame hne
    · exact .inl ⟨nextMoveIsReset_iff.2 hm, ht⟩
    · obtain ⟨hidle, herr, hlegal, hwritten⟩ := startEnabled_iff.1 henabled
      exact .inr (.inl ⟨hidle, ht, ⟨hwritten, hlegal⟩, herr, _, nextMove_eq_some.1 hm⟩)

/-- Settles O34: no step writes the constants, and outside IDLE only a reset is a move on the input. -/
theorem configurationAndProgramAreFixedDuringARun : Obligations.ConfigurationAndProgramAreFixedDuringARun := by
  intro s t hstep
  have hparams : t.params = (useEntry s).params := by
    rcases step_eq_next.1 hstep with ⟨-, hblock⟩ | ⟨m, -, hhost⟩
    · exact params_of_blockStep hblock
    · exact params_of_hostStep hhost
  refine ⟨hparams, fun hphase hreset => ?_⟩
  have hsame : SameInput (useEntry s) t := by
    rcases step_eq_next.1 hstep with ⟨-, hblock⟩ | ⟨m, hm, hhost⟩
    · exact sameInput_of_blockStep hblock
    · refine sameInput_of_hostStep hphase ?_ hhost
      rintro rfl
      simp [nextMoveIsReset_iff.2 hm] at hreset
  obtain ⟨hwidth, hen, hwidthWritten, henWritten, hn, hwmem⟩ := hsame
  exact ⟨hwidth, hen, hwidthWritten, henWritten, hn, fun a => by rw [hwmem]; rfl⟩

/-- Settles O59. -/
theorem unwrittenConfigurationIsNotRead : Obligations.UnwrittenConfigurationIsNotRead := by
  intro s t hidle hstep
  exact ⟨fun w hw => step_of_width_unwritten hidle hw hstep w, fun e he => step_of_en_unwritten hidle he hstep e⟩

/-- Settles O57: the step is `applyReset`, and after it no start is enabled as nothing is written. -/
theorem resetFromAnyState : Obligations.ResetFromAnyState := by
  intro s rest hmoves
  have hm : nextMove s = some .reset := by simp [nextMove, hmoves]
  have hrest : (useEntry s).hostMoves = rest := by simp [useEntry, hmoves]
  exact ⟨_, step_eq_next.2 (.inr ⟨_, hm, .reset⟩), rfl, rfl, rfl, rfl, rfl, rfl, rfl, rfl, rfl, rfl,
    startEnabled_of_unwritten rfl, rfl, hrest⟩

/-- Settles O58, field by field. -/
theorem resetStateHoldsTheSpecsValues : Obligations.ResetStateHoldsTheSpecsValues :=
  ⟨rfl, rfl, rfl, rfl, rfl, rfl, rfl, rfl, rfl, rfl⟩

end

section
/-! PROOFS. Word memory and the outputs: what a load puts in word memory, which steps do not read it, and that a step
overwrites no output. -/

namespace Sys2Proof.Machine

/-! ## The outputs only grow -/

/-- From `s` to `t` every record of PROG stays, and REF and OUT grow at the end only (20_memory.md R55). -/
def OutputsExtend (s t : State) : Prop :=
  (∀ (a : Nat) (d : DecodedInstruction), s.prog[a]? = some (some d) → t.prog[a]? = some (some d)) ∧
    s.ref <+: t.ref ∧ s.out <+: t.out

theorem outputsExtend_of_eq {s t : State} (hprog : t.prog = s.prog) (href : t.ref = s.ref) (hout : t.out = s.out) :
    OutputsExtend s t := by
  simp [OutputsExtend, hprog, href, hout]

/-- In DECODE the entry at SCAN is not decoded yet. -/
theorem Inv.not_decoded_at_scan {s : State} (hinv : Inv s) (hphase : s.phase = .decode) (d : DecodedInstruction) :
    s.prog[s.scan]? ≠ some (some d) := by
  obtain ⟨hmem, hle, -, hprog, -⟩ := (inv_decode_iff hphase).1 hinv
  have htake : (((programFor s).take s.scan).map some).length = s.scan := by simp [hmem.programFor_length, hle]
  rw [hprog, List.getElem?_append_right htake.le]
  simp [List.getElem?_replicate]

/-- Storing a record where none is keeps the records there are. -/
theorem outputsExtend_putRecord {s : State} (hfree : ∀ d, s.prog[s.scan]? ≠ some (some d)) (d : DecodedInstruction) :
    OutputsExtend s (putRecord d s) := by
  refine ⟨fun a e he => ?_, List.prefix_rfl, List.prefix_rfl⟩
  have hne : s.scan ≠ a := by
    rintro rfl
    exact hfree e he
  rw [putRecord_prog, List.getElem?_set_ne hne, he]

theorem prefix_addRef (ref : List Nat) (t : Nat) : ref <+: addRef ref t := by
  unfold addRef
  split
  · exact List.prefix_rfl
  · exact List.prefix_append ref [t]

theorem prefix_collectTarget (ref : List Nat) (target : Option Nat) : ref <+: collectTarget ref target := by
  cases target with
  | none => exact List.prefix_rfl
  | some t => exact prefix_addRef ref t

theorem outputsExtend_of_blockStep {s t : State} (hinv : Inv s) (h : BlockStep s t) : OutputsExtend s t := by
  cases h with
  | decode w hphase => exact outputsExtend_putRecord (hinv.not_decoded_at_scan hphase) _
  | collect d => exact ⟨fun _ _ => id, prefix_collectTarget s.ref d.target, List.prefix_rfl⟩
  | emit d => exact ⟨fun _ _ => id, List.prefix_rfl, List.prefix_append s.out _⟩
  | rest | decodeEnd | collectEnd | emitEnd => exact outputsExtend_of_eq rfl rfl rfl

/-- A start clears the outputs in IDLE only, where they are empty. -/
theorem outputsExtend_beginRun {s : State} (hinv : Inv s) (henabled : startEnabled s = true) :
    OutputsExtend s (beginRun s) := by
  obtain ⟨hidle, -⟩ := startEnabled_iff.1 henabled
  obtain ⟨-, -, hprog, href, hout⟩ := (inv_idle_iff hidle).1 hinv
  simp [OutputsExtend, hprog, href, hout]

theorem outputsExtend_of_hostStep {s t : State} {m : HostMove} (hinv : Inv s) (hm : m ≠ .reset)
    (h : HostStep s m t) : OutputsExtend s t := by
  cases h with
  | reset => exact absurd rfl hm
  | start henabled => exact outputsExtend_beginRun hinv henabled
  | writeWidth | writeEn | loadBytes | loadOddBytes | loadWords | startIgnored => exact outputsExtend_of_eq rfl rfl rfl

/-! ## Steps that do not read word memory -/

/-- Outside DECODE the block's step is the same with other contents of word memory. -/
theorem BlockStep.withMemory {s t : State} (h : BlockStep s t) (hphase : s.phase ≠ .decode) (m : Memory) :
    BlockStep { s with wmem := m } { t with wmem := m } := by
  cases h with
  | rest hrest => exact .rest hrest
  | decode _ hdecode | decodeEnd hdecode => exact absurd hdecode hphase
  | collect d hcollect hlt hd => exact .collect d hcollect hlt hd
  | collectEnd hcollect hge => exact .collectEnd hcollect hge
  | emit d hemit hlt hd => exact .emit d hemit hlt hd
  | emitEnd hemit hge => exact .emitEnd hemit hge

/-! ## The loader -/

/-- Where the host's entry is a move, the step is that move with the entry used up. -/
theorem step_of_move {s : State} {m : HostMove} {rest : List (Option HostMove)} (h : s.hostMoves = some m :: rest) :
    step s = hostMove m { s with hostMoves := rest } := by
  simp [step, nextStep, h]

/-- The first byte of a pair is the high byte of the word (20_memory.md R51). -/
theorem toNat_wordOfBytes (hi lo : Byte) : (Word.ofBytes hi lo).toNat = (hi.toNat <<< 8) ||| lo.toNat :=
  BitVec.toNat_append hi lo

/-- The word of a loaded byte pair. -/
theorem Memory.readWord_ofBytes_of_pair {bytes : List Byte} {i : Nat} {hi lo : Byte} (hhi : bytes[2 * i]? = some hi)
    (hlo : bytes[2 * i + 1]? = some lo) : (Memory.ofBytes bytes).readWord i = some (Word.ofBytes hi lo) := by
  simp [Memory.readWord, Memory.readByte_ofBytes, hhi, hlo]

/-- Beyond the loaded pairs no word exists. -/
theorem Memory.readWord_ofBytes_of_ge {bytes : List Byte} {i : Nat} (h : bytes.length / 2 ≤ i) :
    (Memory.ofBytes bytes).readWord i = none := by
  rw [readWord_ofBytes, List.getElem?_eq_none_iff, wordsOfBytes_length]
  exact h

end Sys2Proof.Machine

open Sys2Proof Sys2Proof.Machine

/-- Settles O35: the block stores at undecoded entries and appends, and a start finds the outputs empty. -/
theorem outputsAreWriteOnceOrAppendOnly : Obligations.OutputsAreWriteOnceOrAppendOnly := by
  intro s t hinv hstep hreset
  have hused : Inv (useEntry s) := inv_hostMoves.2 hinv
  have hext : OutputsExtend (useEntry s) t := by
    rcases step_eq_next.1 hstep with ⟨-, hblock⟩ | ⟨m, hm, hhost⟩
    · exact outputsExtend_of_blockStep hused hblock
    · refine outputsExtend_of_hostStep hused ?_ hhost
      rintro rfl
      simp [nextMoveIsReset_iff.2 hm] at hreset
  exact hext

/-- Settles O36: only the DECODE step looks at word memory. -/
theorem collectAndEmitDoNotReadWordMemory : Obligations.CollectAndEmitDoNotReadWordMemory := by
  intro s t m hphase hmoves hstep
  have hdecode : s.phase ≠ .decode := by
    rcases hphase with hphase | hphase <;> simp [hphase]
  have hblock : BlockStep s t := coreStep_eq_next.1 ((step_of_noMoves hmoves).symm.trans hstep)
  have hmoves' : ({ s with wmem := m } : State).hostMoves = [] := hmoves
  exact (step_of_noMoves hmoves').trans (coreStep_eq_next.2 (hblock.withMemory hdecode m))

/-- Settles O53: the next state is the loader's, and its memory is read pair by pair. -/
theorem evenInputLoadsBigEndianWords : Obligations.EvenInputLoadsBigEndianWords := by
  intro s bytes rest hidle hmoves heven
  have hshape : inputShapeOk bytes = true := by simp [inputShapeOk, heven]
  refine ⟨_, (step_of_move hmoves).trans (hostMove_eq_next.2 (.loadBytes bytes hidle hshape)), rfl, rfl, ?_, ?_⟩
  · intro i hi lo hhi hlo
    exact ⟨_, Memory.readWord_ofBytes_of_pair hhi hlo, toNat_wordOfBytes hi lo⟩
  · intro i hge
    exact Memory.readWord_ofBytes_of_ge hge

/-- Settles O50. -/
theorem oddInputRaisesShapeErrorAndLoadsNothing : Obligations.OddInputRaisesShapeErrorAndLoadsNothing := by
  intro s bytes rest hidle hmoves hodd
  have hshape : inputShapeOk bytes = false := by simp [inputShapeOk, hodd]
  exact (step_of_move hmoves).trans (hostMove_eq_next.2 (.loadOddBytes bytes hidle hshape))

end

section
/-! PROOFS. The encoding: a word is its class, its tail and its operand fields put together. Encoder and decoder are
inverse up to the bits no rule reads, a record does not show those bits, and the opcode map agrees with the decoder. -/

namespace Sys2Proof

open Machine

/-! ## A word is its fields put together -/

theorem slice_append_slice (w : Word) {hi lo n m : Nat} (h : hi = lo + m) :
    slice w hi n ++ slice w lo m = slice w lo (n + m) :=
  BitVec.extractLsb'_append_extractLsb'_eq_extractLsb' h

theorem ofBool_bitAt (w : Word) (i : Nat) : BitVec.ofBool (bitAt w i) = slice w i 1 := by
  apply BitVec.eq_of_getLsbD_eq
  intro j hj
  obtain rfl : j = 0 := by omega
  simp [bitAt, slice]

theorem slice_all (w : Word) : slice w 0 16 = w := BitVec.extractLsb'_eq_self

/-- A word is assembled from its class, its tail and its operand byte (30_encoding.md R70). -/
theorem assemble_fields {w : Word} {c : OpClass} (hc : classOfNumber (opcodeClass w) = c) :
    assemble c (tailOf w) (slice w 0 8) = w := by
  subst hc
  calc assemble (classOfNumber (opcodeClass w)) (tailOf w) (slice w 0 8)
      = (slice w 13 3 ++ slice w 8 5) ++ slice w 0 8 := by rw [assemble, numberOfClass_classOfNumber]; rfl
    _ = slice w 8 8 ++ slice w 0 8 := by rw [slice_append_slice w (hi := 13) (lo := 8) rfl]
    _ = slice w 0 16 := slice_append_slice w rfl
    _ = w := slice_all w

/-! ## The decoder, class by class -/

section
variable {w : Word}

theorem decodeWord_jmp (hc : classOfNumber (opcodeClass w) = .jmp) :
    decodeWord w = .jmp (tailOf w) (slice w 5 3) (slice w 0 5) := by simp only [decodeWord, hc]; rfl

theorem decodeWord_wait (hc : classOfNumber (opcodeClass w) = .wait) :
    decodeWord w = .wait (tailOf w) (slice w 7 1) (slice w 5 2) (slice w 0 5) := by simp only [decodeWord, hc]; rfl

theorem decodeWord_in (hc : classOfNumber (opcodeClass w) = .in_) :
    decodeWord w = .in_ (tailOf w) (slice w 5 3) (slice w 0 5) := by simp only [decodeWord, hc]; rfl

theorem decodeWord_out (hc : classOfNumber (opcodeClass w) = .out) :
    decodeWord w = .out (tailOf w) (slice w 5 3) (slice w 0 5) := by simp only [decodeWord, hc]; rfl

theorem decodeWord_push (hc : classOfNumber (opcodeClass w) = .pushPull) (h7 : bitAt w 7 = false) :
    decodeWord w = .push (tailOf w) (bitAt w 6) (bitAt w 5) := by
  simp [decodeWord, hc, instrPushPull, fPushPull, h7]

theorem decodeWord_pull (hc : classOfNumber (opcodeClass w) = .pushPull) (h7 : bitAt w 7 = true) :
    decodeWord w = .pull (tailOf w) (bitAt w 6) (bitAt w 5) := by
  simp [decodeWord, hc, instrPushPull, fPushPull, h7]

theorem decodeWord_mov (hc : classOfNumber (opcodeClass w) = .mov) :
    decodeWord w = .mov (tailOf w) (slice w 5 3) (slice w 3 2) (slice w 0 3) := by simp only [decodeWord, hc]; rfl

theorem decodeWord_irq (hc : classOfNumber (opcodeClass w) = .irq) :
    decodeWord w = .irq (tailOf w) (bitAt w 6) (bitAt w 5) (slice w 0 5) := by simp only [decodeWord, hc]; rfl

theorem decodeWord_set (hc : classOfNumber (opcodeClass w) = .set) :
    decodeWord w = .set (tailOf w) (slice w 5 3) (slice w 0 5) := by simp only [decodeWord, hc]; rfl

end

/-! ## Decoding an encoded instruction -/

/-- A field of an encoded instruction is the field of its operand byte. -/
theorem slice_encode (i : Instr) {lo len : Nat} (h : lo + len ≤ 8) :
    slice (encode i) lo len = (operandByte i).extractLsb' lo len := slice_assemble _ _ _ h

/-- The two fields of `jmp`, `in`, `out` and `set`. -/
theorem slice_encode_of_two {i : Instr} {x : BitVec 3} {y : BitVec 5} (h : operandByte i = x ++ y) :
    slice (encode i) 5 3 = x ∧ slice (encode i) 0 5 = y := by
  rw [slice_encode i (by decide), slice_encode i (by decide), h]
  exact ⟨BitVec.extractLsb'_append_eq_left, BitVec.extractLsb'_append_eq_right⟩

/-- The three fields of `wait` and `mov`. -/
theorem slice_encode_of_three {i : Instr} {k m n : Nat} (hw : k + m + n = 8) {x : BitVec k} {y : BitVec m}
    {z : BitVec n} (h : operandByte i = (x ++ y ++ z).cast hw) :
    slice (encode i) (n + m) k = x ∧ slice (encode i) n m = y ∧ slice (encode i) 0 n = z := by
  rw [slice_encode i (by omega), slice_encode i (by omega), slice_encode i (by omega), h]
  simp only [BitVec.extractLsb'_cast]
  refine ⟨?_, ?_, BitVec.extractLsb'_append_eq_right⟩
  · rw [BitVec.extractLsb'_append_eq_of_le (by omega), Nat.add_sub_cancel_left, BitVec.extractLsb'_append_eq_left]
  · rw [BitVec.extractLsb'_append_eq_of_le (by omega), Nat.sub_self, BitVec.extractLsb'_append_eq_right]

/-- The bits and the field of `push`, `pull` and `irq`. -/
theorem bitAt_encode_of_flags {i : Instr} {x a b : Bool} {z : BitVec 5}
    (h : operandByte i = BitVec.ofBool x ++ BitVec.ofBool a ++ BitVec.ofBool b ++ z) :
    bitAt (encode i) 7 = x ∧ bitAt (encode i) 6 = a ∧ bitAt (encode i) 5 = b ∧ slice (encode i) 0 5 = z := by
  have hbit : ∀ k < 8, bitAt (encode i) k =
      (BitVec.ofBool x ++ BitVec.ofBool a ++ BitVec.ofBool b ++ z).getLsbD k :=
    fun k hk => (bitAt_assemble _ _ _ hk).trans (congrArg (BitVec.getLsbD · k) h)
  refine ⟨?_, ?_, ?_, ?_⟩
  · simp only [hbit 7 (by decide), BitVec.getLsbD_append]; simp
  · simp only [hbit 6 (by decide), BitVec.getLsbD_append]; simp
  · simp only [hbit 5 (by decide), BitVec.getLsbD_append]; simp
  · rw [slice_encode i (by decide), h]
    exact BitVec.extractLsb'_append_eq_right

/-- Every field comes back from the place the encoder puts it. -/
theorem decodeWord_encode (i : Instr) : decodeWord (encode i) = i := by
  have hclass : classOfNumber (opcodeClass (encode i)) = i.opClass := by simp [encode]
  have htail : tailOf (encode i) = i.tail := tailOf_assemble _ _ _
  cases i with
  | jmp t cond addr =>
    obtain ⟨hcond, haddr⟩ := slice_encode_of_two (i := .jmp t cond addr) rfl
    rw [decodeWord_jmp hclass, htail, hcond, haddr, Instr.tail]
  | wait t pol src index =>
    obtain ⟨hpol, hsrc, hindex⟩ := slice_encode_of_three (i := .wait t pol src index) rfl rfl
    rw [decodeWord_wait hclass, htail, hpol, hsrc, hindex, Instr.tail]
  | in_ t src bitcount =>
    obtain ⟨hsrc, hcount⟩ := slice_encode_of_two (i := .in_ t src bitcount) rfl
    rw [decodeWord_in hclass, htail, hsrc, hcount, Instr.tail]
  | out t dst bitcount =>
    obtain ⟨hdst, hcount⟩ := slice_encode_of_two (i := .out t dst bitcount) rfl
    rw [decodeWord_out hclass, htail, hdst, hcount, Instr.tail]
  | push t cflag block =>
    obtain ⟨h7, hflag, hblock, -⟩ := bitAt_encode_of_flags (i := .push t cflag block) (x := false) rfl
    rw [decodeWord_push hclass h7, htail, hflag, hblock, Instr.tail]
  | pull t cflag block =>
    obtain ⟨h7, hflag, hblock, -⟩ := bitAt_encode_of_flags (i := .pull t cflag block) (x := true) rfl
    rw [decodeWord_pull hclass h7, htail, hflag, hblock, Instr.tail]
  | mov t dst op src =>
    obtain ⟨hdst, hop, hsrc⟩ := slice_encode_of_three (i := .mov t dst op src) rfl rfl
    rw [decodeWord_mov hclass, htail, hdst, hop, hsrc, Instr.tail]
  | irq t clr wait index =>
    obtain ⟨-, hclr, hwait, hindex⟩ := bitAt_encode_of_flags (i := .irq t clr wait index) (x := false) rfl
    rw [decodeWord_irq hclass, htail, hclr, hwait, hindex, Instr.tail]
  | set t dst data =>
    obtain ⟨hdst, hdata⟩ := slice_encode_of_two (i := .set t dst data) rfl
    rw [decodeWord_set hclass, htail, hdst, hdata, Instr.tail]

/-! ## Encoding a decoded word -/

/-- A mask acts on the three parts of a word one by one. -/
theorem assemble_and (c : OpClass) (t t' : BitVec 5) (o o' : BitVec 8) (n : BitVec 3) :
    assemble c t o &&& (n ++ t' ++ o') = (numberOfClass c &&& n) ++ (t &&& t') ++ (o &&& o') := by
  rw [assemble, BitVec.and_append, BitVec.and_append]

/-- Bits of the operand byte masked out. -/
theorem assemble_and_operand (c : OpClass) (t : BitVec 5) (o m : BitVec 8) :
    assemble c t o &&& (7#3 ++ 31#5 ++ m) = assemble c t (o &&& m) := by
  rw [assemble_and, show 7#3 = BitVec.allOnes 3 from rfl, show 31#5 = BitVec.allOnes 5 from rfl,
    BitVec.and_allOnes, BitVec.and_allOnes, assemble]

/-- The operand byte of `push` and `pull` is the word's without `w[4:0]`. -/
theorem operandByte_pushPull (w : Word) :
    BitVec.ofBool (bitAt w 7) ++ BitVec.ofBool (bitAt w 6) ++ BitVec.ofBool (bitAt w 5) ++ 0#5 =
      slice w 0 8 &&& 0xE0#8 := by
  have hupper : slice w 7 1 ++ slice w 6 1 ++ slice w 5 1 = slice w 5 3 := by
    rw [slice_append_slice w (hi := 7) (lo := 6) rfl, slice_append_slice w (hi := 6) (lo := 5) rfl]
  have hbyte : slice w 0 8 = slice w 5 3 ++ slice w 0 5 := (slice_append_slice w (n := 3) (m := 5) rfl).symm
  have hmask : 0xE0#8 = BitVec.allOnes 3 ++ 0#5 := rfl
  rw [ofBool_bitAt, ofBool_bitAt, ofBool_bitAt, hupper, hbyte, hmask, BitVec.and_append, BitVec.and_allOnes,
    BitVec.and_zero]

/-- The operand byte of `irq` is the word's without `w[7]`. -/
theorem operandByte_irq (w : Word) :
    0#1 ++ BitVec.ofBool (bitAt w 6) ++ BitVec.ofBool (bitAt w 5) ++ slice w 0 5 = slice w 0 8 &&& 0x7F#8 := by
  have hbyte : slice w 0 8 = slice w 7 1 ++ slice w 6 1 ++ slice w 5 1 ++ slice w 0 5 := by
    rw [slice_append_slice w (hi := 7) (lo := 6) rfl, slice_append_slice w (hi := 6) (lo := 5) rfl,
      slice_append_slice w (hi := 5) (lo := 0) rfl]
  have hmask : 0x7F#8 = 0#1 ++ BitVec.allOnes 1 ++ BitVec.allOnes 1 ++ BitVec.allOnes 5 := rfl
  rw [ofBool_bitAt, ofBool_bitAt, hbyte, hmask, BitVec.and_append, BitVec.and_append, BitVec.and_append,
    BitVec.and_allOnes, BitVec.and_allOnes, BitVec.and_allOnes, BitVec.and_zero]

section
variable {w : Word} {c : OpClass}

theorem careMask_pushPull (hc : classOfNumber (opcodeClass w) = .pushPull) :
    careMask w = 7#3 ++ 31#5 ++ 0xE0#8 := by simp only [careMask, hc]; rfl

theorem careMask_irq (hc : classOfNumber (opcodeClass w) = .irq) : careMask w = 7#3 ++ 31#5 ++ 0x7F#8 := by
  simp only [careMask, hc]; rfl

/-- The other six classes read every bit. -/
theorem careMask_eq_allOnes (hc : classOfNumber (opcodeClass w) = c) (hpush : c ≠ .pushPull) (hirq : c ≠ .irq) :
    careMask w = BitVec.allOnes 16 := by
  subst hc
  unfold careMask
  split <;> trivial

/-- A word with the operand byte masked is the word masked as its class says. -/
theorem assemble_eq_and_careMask {o m : BitVec 8} (hc : classOfNumber (opcodeClass w) = c)
    (hm : careMask w = 7#3 ++ 31#5 ++ m) (ho : o = slice w 0 8 &&& m) :
    assemble c (tailOf w) o = w &&& careMask w := by
  rw [ho, hm, ← assemble_and_operand, assemble_fields hc]

/-- In a class that reads every bit nothing is masked. -/
theorem assemble_eq_and_careMask_of_all {o : BitVec 8} (hc : classOfNumber (opcodeClass w) = c)
    (hpush : c ≠ .pushPull) (hirq : c ≠ .irq) (ho : o = slice w 0 8) :
    assemble c (tailOf w) o = w &&& careMask w := by
  rw [ho, careMask_eq_allOnes hc hpush hirq, BitVec.and_allOnes, assemble_fields hc]

/-- Two fields of three and five bits fill the operand byte. -/
theorem assemble_twoFields_eq_and_careMask (hc : classOfNumber (opcodeClass w) = c) (hpush : c ≠ .pushPull)
    (hirq : c ≠ .irq) :
    assemble c (tailOf w) (slice w 5 3 ++ slice w 0 5) = w &&& careMask w :=
  assemble_eq_and_careMask_of_all hc hpush hirq (slice_append_slice w rfl)

theorem encode_decodeWord (w : Word) : encode (decodeWord w) = w &&& careMask w := by
  cases hc : classOfNumber (opcodeClass w) with
  | jmp =>
    rw [decodeWord_jmp hc]
    exact assemble_twoFields_eq_and_careMask (c := .jmp) hc (by decide) (by decide)
  | wait =>
    rw [decodeWord_wait hc]
    refine assemble_eq_and_careMask_of_all (c := .wait) hc (by decide) (by decide) ?_
    calc slice w 7 1 ++ slice w 5 2 ++ slice w 0 5
      _ = slice w 5 3 ++ slice w 0 5 := by rw [slice_append_slice w (hi := 7) rfl]
      _ = slice w 0 8 := slice_append_slice w rfl
  | in_ =>
    rw [decodeWord_in hc]
    exact assemble_twoFields_eq_and_careMask (c := .in_) hc (by decide) (by decide)
  | out =>
    rw [decodeWord_out hc]
    exact assemble_twoFields_eq_and_careMask (c := .out) hc (by decide) (by decide)
  | pushPull =>
    have hbyte := operandByte_pushPull w
    cases h7 : bitAt w 7 with
    | false =>
      rw [h7] at hbyte
      rw [decodeWord_push hc h7]
      exact assemble_eq_and_careMask hc (careMask_pushPull hc) hbyte
    | true =>
      rw [h7] at hbyte
      rw [decodeWord_pull hc h7]
      exact assemble_eq_and_careMask hc (careMask_pushPull hc) hbyte
  | mov =>
    rw [decodeWord_mov hc]
    refine assemble_eq_and_careMask_of_all (c := .mov) hc (by decide) (by decide) ?_
    calc slice w 5 3 ++ slice w 3 2 ++ slice w 0 3
      _ = slice w 3 5 ++ slice w 0 3 := by rw [slice_append_slice w (hi := 5) (lo := 3) rfl]
      _ = slice w 0 8 := slice_append_slice w rfl
  | irq =>
    rw [decodeWord_irq hc]
    exact assemble_eq_and_careMask hc (careMask_irq hc) (operandByte_irq w)
  | set =>
    rw [decodeWord_set hc]
    exact assemble_twoFields_eq_and_careMask (c := .set) hc (by decide) (by decide)

end

/-! ## Bits that do not show -/

theorem slice_congr {w v : Word} {lo len : Nat} (h : ∀ i, lo ≤ i → i < lo + len → bitAt w i = bitAt v i) :
    slice w lo len = slice v lo len := by
  apply BitVec.eq_of_getLsbD_eq
  intro i hi
  have := h (lo + i) (by omega) (by omega)
  simpa [slice, hi, bitAt] using this

/-- Only the low three bits of the raw index reach the text (41_field_decoder.md R129). -/
theorem effIndex_slice (w : Word) : effIndex (slice w 0 5) = (slice w 0 3).toNat := by
  have h7 : 0b111 = 2 ^ 3 - 1 := rfl
  rw [effIndex, h7, Nat.and_two_pow_sub_one_eq_mod]
  simp only [slice, BitVec.extractLsb'_toNat]
  omega

section
variable {w v : Word}

/-- The instruction of a PUSH/PULL word, from `w[7:5]` and the tail. -/
theorem decodeWord_congr_pushPull (hw : classOfNumber (opcodeClass w) = .pushPull)
    (hv : classOfNumber (opcodeClass v) = .pushPull) (hbits : ∀ i < 16, 5 ≤ i → bitAt w i = bitAt v i) :
    decodeWord w = decodeWord v := by
  have htail : tailOf w = tailOf v := slice_congr fun i _ _ => hbits i (by omega) (by omega)
  have h7 := hbits 7 (by decide) (by decide)
  have h6 := hbits 6 (by decide) (by decide)
  have h5 := hbits 5 (by decide) (by decide)
  cases hpull : bitAt w 7 with
  | false => rw [decodeWord_push hw hpull, decodeWord_push hv (h7 ▸ hpull), htail, h6, h5]
  | true => rw [decodeWord_pull hw hpull, decodeWord_pull hv (h7 ▸ hpull), htail, h6, h5]

/-- The record of an IRQ word, from `w[6:5]`, `w[2:0]` and the tail. -/
theorem decodeRecord_congr_irq (p : Params) (c : SidesetConfig) (hw : classOfNumber (opcodeClass w) = .irq)
    (hv : classOfNumber (opcodeClass v) = .irq)
    (hbits : ∀ i < 16, ¬ (i = 7 ∨ i = 4 ∨ i = 3) → bitAt w i = bitAt v i) :
    decodeRecord p c w = decodeRecord p c v := by
  have htail : tailOf w = tailOf v := slice_congr fun i _ _ => hbits i (by omega) (by omega)
  have h6 := hbits 6 (by decide) (by decide)
  have h5 := hbits 5 (by decide) (by decide)
  have hindex : effIndex (slice w 0 5) = effIndex (slice v 0 5) := by
    rw [effIndex_slice, effIndex_slice, slice_congr fun i _ _ => hbits i (by omega) (by omega)]
  have hmnemonic : irqText p (bitAt w 6) (bitAt w 5) (slice w 0 5) =
      irqText p (bitAt v 6) (bitAt v 5) (slice v 0 5) := by
    rw [irqText, irqText, h6, h5, hindex]
  simp only [decodeRecord, decodeWord_irq hw, decodeWord_irq hv, describe, mnemonicOf, targetOf,
    Instr.tail, hmnemonic, htail]

end

/-! ## The opcode map -/

/-- The rows look at the class and at bit 7 only (30_encoding.md R82). -/
theorem selects_eq_and {r : OpRow} (hr : r ∈ opcodeRows) (w : Word) : r.selects w = r.selects (w &&& 0xE080) := by
  have hmask : ∀ r ∈ opcodeRows, 0xE080 &&& r.mask = r.mask := by decide
  rw [OpRow.selects, OpRow.selects, BitVec.and_assoc, hmask r hr]

/-- What the rows look at, given the class and bit 7. -/
theorem and_rowBits {w : Word} {c : OpClass} (hc : classOfNumber (opcodeClass w) = c) :
    w &&& 0xE080 = assemble c 0 (if bitAt w 7 then 0x80 else 0) := by
  have hbit : slice w 0 8 &&& 0x80#8 = if bitAt w 7 then 0x80#8 else 0 := by
    have h7 : (slice w 0 8).getLsbD 7 = bitAt w 7 := by simp [slice, bitAt]
    rw [← h7]
    exact BitVec.and_twoPow (slice w 0 8) 7
  calc w &&& 0xE080 = assemble c (tailOf w) (slice w 0 8) &&& (BitVec.allOnes 3 ++ 0#5 ++ 0x80#8) := by
        rw [assemble_fields hc]; rfl
    _ = assemble c 0 (if bitAt w 7 then 0x80 else 0) := by
        rw [assemble_and, BitVec.and_allOnes, BitVec.and_zero, hbit]; rfl

/-- The selected rows depend on the class and on bit 7. -/
theorem filter_selects {w : Word} {c : OpClass} (hc : classOfNumber (opcodeClass w) = c) :
    opcodeRows.filter (fun r => r.selects w) =
      opcodeRows.filter (fun r => r.selects (assemble c 0 (if bitAt w 7 then 0x80 else 0))) := by
  rw [← and_rowBits hc]
  exact List.filter_congr fun r hr => selects_eq_and hr w

theorem filter_selects_eq_rowOf (w : Word) : opcodeRows.filter (fun r => r.selects w) = [rowOf (decodeWord w)] := by
  cases hc : classOfNumber (opcodeClass w) with
  | jmp => rw [filter_selects hc, decodeWord_jmp hc]; cases bitAt w 7 <;> rfl
  | wait => rw [filter_selects hc, decodeWord_wait hc]; cases bitAt w 7 <;> rfl
  | in_ => rw [filter_selects hc, decodeWord_in hc]; cases bitAt w 7 <;> rfl
  | out => rw [filter_selects hc, decodeWord_out hc]; cases bitAt w 7 <;> rfl
  | pushPull =>
    rw [filter_selects hc]
    cases h7 : bitAt w 7 with
    | false => rw [decodeWord_push hc h7]; rfl
    | true => rw [decodeWord_pull hc h7]; rfl
  | mov => rw [filter_selects hc, decodeWord_mov hc]; cases bitAt w 7 <;> rfl
  | irq => rw [filter_selects hc, decodeWord_irq hc]; cases bitAt w 7 <;> rfl
  | set => rw [filter_selects hc, decodeWord_set hc]; cases bitAt w 7 <;> rfl

end Sys2Proof

open Sys2Proof Sys2Proof.Machine

/-- Settles O1: the two bytes are the encoded word's, and the decoder finds every field in its place. -/
theorem encodedInstructionDecodesToItself : Obligations.EncodedInstructionDecodesToItself := by
  intro i rest
  have hbytes : decodeBytes (encodeBytes i ++ rest) =
      .ok (decodeWord (Word.ofBytes (encode i).hiByte (encode i).loByte), rest) := rfl
  rw [hbytes, ofBytes_hiByte_loByte, decodeWord_encode]

/-- Settles O2, class by class. -/
theorem decodedWordEncodesBackInReadBits : Obligations.DecodedWordEncodesBackInReadBits := encode_decodeWord

/-- Settles O3: where every bit is read the words are equal; else the fields that are read are equal. -/
theorem dontCareBitsDoNotShow : Obligations.DontCareBitsDoNotShow := by
  intro p c w v hclass hbits
  have hv : classOfNumber (opcodeClass v) = classOfNumber (opcodeClass w) := by rw [hclass]
  by_cases hpush : classOfNumber (opcodeClass w) = .pushPull
  · have hsame : decodeWord w = decodeWord v :=
      decodeWord_congr_pushPull hpush (hv.trans hpush) fun i hi h5 =>
        hbits i hi (fun h => absurd h.2 (by omega)) (by simp [hpush])
    rw [decodeRecord, decodeRecord, hsame]
  by_cases hirq : classOfNumber (opcodeClass w) = .irq
  · exact decodeRecord_congr_irq p c hirq (hv.trans hirq) fun i hi hread =>
      hbits i hi (fun h => hpush h.1) (fun h => hread h.2)
  · have hsame : w = v := BitVec.eq_of_getLsbD_eq fun i hi =>
      hbits i hi (fun h => hpush h.1) (fun h => hirq h.1)
    rw [hsame]

/-- Settles O4, class by class. -/
theorem eachWordSelectsOneOpcodeRow : Obligations.EachWordSelectsOneOpcodeRow := filter_selects_eq_rowOf

end

section
/-! PROOFS. The records of a MOV and of an IRQ word, and what the constraints on the tables say of the reserved MOV
operation. -/

namespace Sys2Proof.Machine

/-- The constraint of 40_opcode_tables.md R112(c): the operation `0b11` is unregistered. -/
theorem movOp_three_of_admissible {t : Tables} (h : t.admissible = true) : t.movOp.entry 3 = none := by
  simp only [Tables.admissible, Tables.movOpThreeReserved, Bool.and_eq_true, beq_iff_eq] at h
  obtain ⟨⟨⟨-, hreserved⟩, -⟩, -⟩ := h
  exact hreserved

/-- The effective index is the raw one modulo 8 (41_field_decoder.md R129). -/
theorem effIndex_eq_mod (index : BitVec 5) : effIndex index = index.toNat % 8 :=
  Nat.and_two_pow_sub_one_eq_mod index.toNat 3

section
variable {w : Word} (p : Params) (c : SidesetConfig)

theorem decodeRecord_mov (hc : classOfNumber (opcodeClass w) = .mov) :
    decodeRecord p c w = ⟨movText p (slice w 5 3) (slice w 3 2) (slice w 0 3), none, ssd c (tailOf w)⟩ := by
  rw [decodeRecord, decodeWord_mov hc]; rfl

theorem decodeRecord_irq (hc : classOfNumber (opcodeClass w) = .irq) :
    decodeRecord p c w = ⟨irqText p (bitAt w 6) (bitAt w 5) (slice w 0 5), none, ssd c (tailOf w)⟩ := by
  rw [decodeRecord, decodeWord_irq hc]; rfl

end

/-- The source text of a reserved operation begins with `RESERVED`. -/
theorem movText_three {p : Params} (h : p.tables.admissible = true) (dst src : BitVec 3) :
    movText p dst 3 src = printTemplate p.sep p.templates.mov
      [some (lookup (p.tables.movDst.entry dst)),
       some ("RESERVED".toList ++ lookup (p.tables.movSrc.entry src))] := by
  rw [movText, movOp_three_of_admissible h]; rfl

end Sys2Proof.Machine

open Sys2Proof Sys2Proof.Machine

/-- Settles O8: the class fixes the record; the reserved operation is unregistered in every admissible table. -/
theorem reservedMovOperationPrintsReservedForAllTables :
    Obligations.ReservedMovOperationPrintsReservedForAllTables := by
  intro p c w
  constructor
  · intro htables hmov hop
    rw [decodeRecord_mov p c hmov, hop]
    exact ⟨movText_three htables _ _, rfl⟩
  · intro hirq
    rw [decodeRecord_irq p c hirq, irqText, effIndex_eq_mod]
    exact ⟨rfl, rfl⟩

end


section
/-! PROOFS. The fields of a word as numbers, the record an instruction stores, and the text of `in`. -/

namespace Sys2Proof

/-! ## Fields as numbers -/

/-- A field is the word shifted to the field's lowest bit and masked to the field's length (41_field_decoder.md R121). -/
theorem toNat_slice (w : Word) (lo len : Nat) : (slice w lo len).toNat = (w.toNat >>> lo) &&& (2 ^ len - 1) := by
  rw [slice, BitVec.extractLsb'_toNat, Nat.and_two_pow_sub_one_eq_mod]

theorem toNat_bitAt (w : Word) (i : Nat) : (bitAt w i).toNat = (w.toNat >>> i) &&& 1 := by
  rw [← BitVec.toNat_ofBool, ofBool_bitAt]
  exact toNat_slice w i 1

/-- The effective index is the masked word: of the two masks on it the narrower one remains (41_field_decoder.md
R129). -/
theorem effIndex_slice_eq_and (w : Word) : Machine.effIndex (slice w 0 5) = w.toNat &&& 0b111 :=
  (effIndex_slice w).trans (toNat_slice w 0 3)

end Sys2Proof

namespace Sys2Proof.Machine

/-! ## What an instruction stores -/

theorem recordedAt_putRecord {s : State} (hscan : s.scan < s.prog.length) (d : DecodedInstruction) :
    RecordedAt s (putRecord d s) d :=
  ⟨List.getElem?_set_self hscan, rfl, List.length_set, fun _ hb => List.getElem?_set_ne hb.symm, rfl⟩

/-- Every instruction completes under a written and legal configuration and leaves its record at SCAN
(43_instruction_decoder.md R160). -/
theorem exec_recordedAt {s : State} (hready : ConfigReady s) (hscan : s.scan < s.prog.length) (i : Instr) :
    ∃ t, exec i s = .next t ∧ RecordedAt s t (describe s.params s.config i) := by
  obtain ⟨hwritten, hlegal⟩ := hready
  exact ⟨_, exec_eq_next.2 ⟨hwritten, hlegal, rfl⟩, recordedAt_putRecord hscan _⟩

/-! ## The text of `in` -/

/-- The bit count 0 is printed as 32, any other as it stands (41_field_decoder.md R132). -/
theorem bitcountText_eq (k : BitVec 5) : bitcountText k = if k = 0 then "32".toList else dec k.toNat := by
  by_cases hk : k = 0
  · subst hk; rfl
  · have hne : k.toNat ≠ 0 := fun h => hk (BitVec.eq_of_toNat_eq h)
    rw [bitcountText, bc32, if_neg hne, if_neg hk]

theorem inText_of_defaultTemplates {p : Params} (h : p.templates = defaultTemplates) (src : BitVec 3)
    (bitcount : BitVec 5) :
    inText p src bitcount =
      "in ".toList ++ (lookup (p.tables.inSrc.entry src) ++ (p.sep ++ bitcountText bitcount)) := by
  rw [inText, h]
  exact printTemplate_operandTemplate "in" p.sep _ _

end Sys2Proof.Machine

open Sys2Proof Sys2Proof.Machine

/-- Settles O6: every field is a slice or a single bit of the word. -/
theorem fieldsAreShiftedAndMaskedWords : Obligations.FieldsAreShiftedAndMaskedWords := by
  intro w
  refine ⟨toNat_slice w 13 3, toNat_slice w 8 5, ?jmpHigh, ?jmpLow, ?waitPolarity, ?waitSource, ?waitIndex, ?inHigh,
    ?inLow, ?outHigh, ?outLow, ?pull, ?conditional, ?block, ?movDestination, ?movOperation, ?movSource, ?clear, ?wait,
    ?index, ?effective, ?setHigh, ?setLow⟩
  case jmpHigh | inHigh | outHigh | movDestination | setHigh => exact toNat_slice w 5 3
  case jmpLow | waitIndex | inLow | outLow | index | setLow => exact toNat_slice w 0 5
  case waitPolarity => exact toNat_slice w 7 1
  case waitSource => exact toNat_slice w 5 2
  case pull => exact toNat_bitAt w 7
  case conditional | clear => exact toNat_bitAt w 6
  case block | wait => exact toNat_bitAt w 5
  case movOperation => exact toNat_slice w 3 2
  case movSource => exact toNat_slice w 0 3
  case effective => exact effIndex_slice_eq_and w

/-- Settles O18: `in` stores its record like every instruction; its text has the bit count 0 as 32. -/
theorem inStoresSourceAndBitCount : Obligations.InStoresSourceAndBitCount := by
  intro s tail src bitcount hready hscan
  obtain ⟨t, hexec, hrecord⟩ := exec_recordedAt hready hscan (.in_ tail src bitcount)
  refine ⟨t, inText s.params src bitcount, hexec, hrecord, ?_, fun hdefault => ?_⟩
  · rw [inText, bitcountText_eq]
  · rw [inText_of_defaultTemplates hdefault, bitcountText_eq]

end

section
/-! PROOFS. The side-set/delay text: the tail as a number, split by the configuration. -/

namespace Sys2Proof.Machine

/-! ## The layout a configuration gives the tail -/

theorem hasEnableFlag_iff {c : SidesetConfig} : hasEnableFlag c = true ↔ c.en = true ∧ 0 < c.width.toNat := by
  simp [hasEnableFlag]

/-- The bits in front of the delay: the side-set value's and, where there is one, the enable flag. -/
theorem sidesetBits_eq_width_add (c : SidesetConfig) :
    sidesetBits c = c.width.toNat + (hasEnableFlag c).toNat := by
  by_cases hw : 0 < c.width.toNat
  · simp [sidesetBits, hasEnableFlag, hw]
  · simp [sidesetBits, hasEnableFlag, Nat.eq_zero_of_not_pos hw]

theorem sidesetBits_le_of_legal {c : SidesetConfig} (h : c.legal = true) : sidesetBits c ≤ 5 := by
  have hfits : c.width.toNat + c.en.toNat ≤ 5 := of_decide_eq_true (Bool.and_eq_true_iff.1 h).2
  rw [sidesetBits]
  split <;> omega

theorem sidesetBits_add_delayBits {c : SidesetConfig} (h : c.legal = true) : sidesetBits c + delayBits c = 5 :=
  Nat.add_sub_of_le (sidesetBits_le_of_legal h)

/-! ## The enable flag, the delay and the value as quotients and remainders -/

theorem clearedTail_eq (c : SidesetConfig) (t : BitVec 5) :
    clearedTail c t = if hasEnableFlag c then t.toNat % 16 else t.toNat := by
  rw [clearedTail, show t.toNat &&& 0b01111 = t.toNat % 16 from Nat.and_two_pow_sub_one_eq_mod t.toNat 4]

/-- The top bit of the tail is set exactly if the tail divided by 16 is 1. -/
theorem getLsbD_four_iff (t : BitVec 5) : t.getLsbD 4 = true ↔ t.toNat / 16 = 1 := by
  have hlt := t.isLt
  rw [← BitVec.testBit_toNat, Nat.testBit_eq_decide_div_mod_eq, decide_eq_true_iff]
  omega

/-- The flag as the spec's number, 0 where the tail has no enable flag (42_sideset_delay.md R148). -/
theorem enableFlag_iff {c : SidesetConfig} {t : BitVec 5} :
    enableFlag c t = true ↔ (if hasEnableFlag c then t.toNat / 16 else 0) = 1 := by
  cases hflag : hasEnableFlag c with
  | true => rw [enableFlag, hflag, Bool.true_and, if_pos rfl, getLsbD_four_iff]
  | false => simp [enableFlag, hflag]

theorem delayOf_eq_mod (c : SidesetConfig) (t : BitVec 5) : delayOf c t = clearedTail c t % 2 ^ delayBits c := by
  rw [delayOf, Nat.one_shiftLeft, Nat.and_two_pow_sub_one_eq_mod]

theorem sidesetValue_eq_div (c : SidesetConfig) (t : BitVec 5) :
    sidesetValue c t = clearedTail c t / 2 ^ delayBits c :=
  Nat.shiftRight_eq_div_pow ..

theorem sidesetEnabled_iff {c : SidesetConfig} {t : BitVec 5} :
    sidesetEnabled c t = true ↔
      if c.en then (if hasEnableFlag c then t.toNat / 16 else 0) = 1 else sidesetValue c t > 0 := by
  cases hen : c.en with
  | true => simp only [sidesetEnabled, hen, if_true, enableFlag_iff]
  | false => simp [sidesetEnabled, hen]

/-- What the flag leaves of the tail is as wide as the value and the delay together. -/
theorem clearedTail_lt {c : SidesetConfig} (h : c.legal = true) (t : BitVec 5) :
    clearedTail c t < 2 ^ c.width.toNat * 2 ^ delayBits c := by
  have hbits := sidesetBits_add_delayBits h
  rw [sidesetBits_eq_width_add] at hbits
  rw [← Nat.pow_add, clearedTail_eq]
  cases hflag : hasEnableFlag c with
  | true =>
    have hwidth : c.width.toNat + delayBits c = 4 := by rw [hflag, Bool.toNat_true] at hbits; omega
    simpa [hwidth] using Nat.mod_lt t.toNat (by decide : 0 < 16)
  | false =>
    have hwidth : c.width.toNat + delayBits c = 5 := by rw [hflag, Bool.toNat_false] at hbits; omega
    simpa [hwidth] using t.isLt

/-- The tail is its flag bit and what the flag leaves of it. -/
theorem toNat_eq_flag_add_clearedTail (c : SidesetConfig) (t : BitVec 5) :
    t.toNat = (if enableFlag c t then 16 else 0) + clearedTail c t := by
  have hlt := t.isLt
  cases hflag : hasEnableFlag c with
  | true =>
    simp only [clearedTail_eq, enableFlag_iff, hflag, if_true]
    split <;> omega
  | false => simp [clearedTail_eq, enableFlag, hflag]

/-! ## The text -/

/-- Joining the two optional parts is the spec's list of parts joined by one space (42_sideset_delay.md R148). -/
theorem joinParts_eq_intercalate (a b : Option Text) :
    joinParts a b = List.intercalate " ".toList (a.toList ++ b.toList) := by
  match a, b with
  | some x, some y => simp [joinParts, List.intercalate]
  | some x, none => simp [joinParts, List.intercalate]
  | none, some y => simp [joinParts, List.intercalate]
  | none, none => rfl

theorem toList_sidePart (c : SidesetConfig) (t : BitVec 5) :
    (sidePart c t).toList = if sidesetEnabled c t then ["side ".toList ++ dec (sidesetValue c t)] else [] := by
  rw [sidePart]
  split <;> rfl

theorem toList_delayPart (c : SidesetConfig) (t : BitVec 5) :
    (delayPart c t).toList = if delayOf c t > 0 then ["[".toList ++ dec (delayOf c t) ++ "]".toList] else [] := by
  rw [delayPart]
  split <;> rfl

theorem delayOf_eq_zero {c : SidesetConfig} (h : delayBits c = 0) (t : BitVec 5) : delayOf c t = 0 := by
  rw [delayOf_eq_mod, h, Nat.pow_zero, Nat.mod_one]

theorem delayPart_eq_none {c : SidesetConfig} {t : BitVec 5} (h : delayOf c t = 0) : delayPart c t = none := by
  simp [delayPart, h]

theorem ssd_of_delayPart_eq_none {c : SidesetConfig} {t : BitVec 5} (h : delayPart c t = none) :
    ssd c t = if sidesetEnabled c t then "side ".toList ++ dec (sidesetValue c t) else [] := by
  rw [ssd, h, sidePart]
  split <;> rfl

end Sys2Proof.Machine

open Sys2Proof Sys2Proof.Machine

/-- Settles O12: the flag bit and the cleared tail are the tail, and the value and the delay are the cleared tail's
quotient and remainder by `2 ^ delayBits`. -/
theorem tailIsSplitWithoutLoss : Obligations.TailIsSplitWithoutLoss := by
  intro c t hlegal
  refine ⟨sidesetBits_add_delayBits hlegal, ?delay, ?value, ?tail⟩
  case delay =>
    rw [delayOf_eq_mod]
    exact Nat.mod_lt _ (Nat.two_pow_pos _)
  case value =>
    rw [sidesetValue_eq_div]
    exact Nat.div_lt_of_lt_mul (Nat.mul_comm .. ▸ clearedTail_lt hlegal t)
  case tail =>
    rw [Nat.add_assoc, sidesetValue_eq_div, delayOf_eq_mod, Nat.div_add_mod']
    exact toNat_eq_flag_add_clearedTail c t

/-- Settles O13: each name of the spec's algorithm is the model's function of that name, and the parts are joined
alike; the two agree outside the legal configurations too. -/
theorem sidesetTextFollowsTheAlgorithm : Obligations.SidesetTextFollowsTheAlgorithm := by
  intro width en t _
  have hbits : sidesetBits ⟨width, en⟩ = if width.toNat > 0 then width.toNat + (if en then 1 else 0) else 0 := by
    cases en <;> rfl
  simp only [ssd, joinParts_eq_intercalate, toList_sidePart, toList_delayPart, sidesetEnabled_iff,
    sidesetValue_eq_div, delayOf_eq_mod, clearedTail_eq, hasEnableFlag_iff, delayBits, hbits, gt_iff_lt]

/-- Settles O14: with no delay bits the delay is 0, so only the side part is left. -/
theorem noDelayIsShownWithoutDelayBits : Obligations.NoDelayIsShownWithoutDelayBits := by
  intro c t hc
  have hbits : delayBits c = 0 := by obtain rfl | rfl := hc <;> rfl
  have hpart : delayPart c t = none := delayPart_eq_none (delayOf_eq_zero hbits t)
  refine ⟨hbits, hpart, ?_⟩
  rw [ssd_of_delayPart_eq_none hpart]
  cases sidesetEnabled c t with
  | true => exact .inr rfl
  | false => exact .inl rfl

end

section
/-! PROOFS. What the nine instructions store: the tail of a word reaches the side-set text and nothing else, a record
does not depend on where it is stored, and the texts the default templates give. -/

namespace Sys2Proof

/-! ## Words with the same operand byte -/

/-- The same instruction with another tail. -/
def Instr.withTail (t : BitVec 5) : Instr → Instr
  | .jmp _ cond addr => .jmp t cond addr
  | .wait _ pol src index => .wait t pol src index
  | .in_ _ src bitcount => .in_ t src bitcount
  | .out _ dst bitcount => .out t dst bitcount
  | .push _ cflag block => .push t cflag block
  | .pull _ cflag block => .pull t cflag block
  | .mov _ dst op src => .mov t dst op src
  | .irq _ clr waits index => .irq t clr waits index
  | .set _ dst data => .set t dst data

@[simp] theorem mnemonicOf_withTail (p : Params) (t : BitVec 5) (i : Instr) :
    Machine.mnemonicOf p (i.withTail t) = Machine.mnemonicOf p i := by
  cases i <;> rfl

@[simp] theorem targetOf_withTail (t : BitVec 5) (i : Instr) :
    Machine.targetOf (i.withTail t) = Machine.targetOf i := by
  cases i <;> rfl

@[simp] theorem tail_withTail (t : BitVec 5) (i : Instr) : (i.withTail t).tail = t := by
  cases i <;> rfl

section
variable {w v : Word}

theorem bitAt_congr_of_operand (h : slice w 0 8 = slice v 0 8) {i : Nat} (hi : i < 8) : bitAt w i = bitAt v i := by
  have := congrArg (BitVec.getLsbD · i) h
  simpa [slice, bitAt, hi] using this

theorem slice_congr_of_operand (h : slice w 0 8 = slice v 0 8) {lo len : Nat} (hle : lo + len ≤ 8) :
    slice w lo len = slice v lo len :=
  slice_congr fun _ _ hi => bitAt_congr_of_operand h (by omega)

/-- Class and operand byte fix the instruction up to its tail. -/
theorem decodeWord_eq_withTail (hclass : opcodeClass w = opcodeClass v) (h : slice w 0 8 = slice v 0 8) :
    decodeWord w = (decodeWord v).withTail (tailOf w) := by
  have hcw : classOfNumber (opcodeClass w) = classOfNumber (opcodeClass v) := congrArg classOfNumber hclass
  have hhigh : slice w 5 3 = slice v 5 3 := slice_congr_of_operand h (by decide)
  have hlow : slice w 0 5 = slice v 0 5 := slice_congr_of_operand h (by decide)
  have h6 : bitAt w 6 = bitAt v 6 := bitAt_congr_of_operand h (by decide)
  have h5 : bitAt w 5 = bitAt v 5 := bitAt_congr_of_operand h (by decide)
  cases hc : classOfNumber (opcodeClass v) with
  | jmp => rw [decodeWord_jmp (hcw.trans hc), decodeWord_jmp hc, hhigh, hlow, Instr.withTail]
  | wait =>
    have hpol : slice w 7 1 = slice v 7 1 := slice_congr_of_operand h (by decide)
    have hsrc : slice w 5 2 = slice v 5 2 := slice_congr_of_operand h (by decide)
    rw [decodeWord_wait (hcw.trans hc), decodeWord_wait hc, hpol, hsrc, hlow, Instr.withTail]
  | in_ => rw [decodeWord_in (hcw.trans hc), decodeWord_in hc, hhigh, hlow, Instr.withTail]
  | out => rw [decodeWord_out (hcw.trans hc), decodeWord_out hc, hhigh, hlow, Instr.withTail]
  | pushPull =>
    have h7 : bitAt w 7 = bitAt v 7 := bitAt_congr_of_operand h (by decide)
    cases hpull : bitAt v 7 with
    | false =>
      rw [decodeWord_push (hcw.trans hc) (h7.trans hpull), decodeWord_push hc hpull, h6, h5, Instr.withTail]
    | true =>
      rw [decodeWord_pull (hcw.trans hc) (h7.trans hpull), decodeWord_pull hc hpull, h6, h5, Instr.withTail]
  | mov =>
    have hop : slice w 3 2 = slice v 3 2 := slice_congr_of_operand h (by decide)
    have hsrc : slice w 0 3 = slice v 0 3 := slice_congr_of_operand h (by decide)
    rw [decodeWord_mov (hcw.trans hc), decodeWord_mov hc, hhigh, hop, hsrc, Instr.withTail]
  | irq => rw [decodeWord_irq (hcw.trans hc), decodeWord_irq hc, h6, h5, hlow, Instr.withTail]
  | set => rw [decodeWord_set (hcw.trans hc), decodeWord_set hc, hhigh, hlow, Instr.withTail]

/-- Every instruction carries the tail of its word (41_field_decoder.md R122). -/
theorem tail_decodeWord (w : Word) : (decodeWord w).tail = tailOf w := by
  rw [decodeWord_eq_withTail (v := w) rfl rfl, tail_withTail]

end

end Sys2Proof

namespace Sys2Proof.Machine

/-- The side-set text is made of the tail and the configuration, whatever the class (43_instruction_decoder.md
R164). -/
theorem decodeRecord_sidesetText (p : Params) (c : SidesetConfig) (w : Word) :
    (decodeRecord p c w).sidesetText = ssd c (tailOf w) :=
  congrArg (ssd c) (tail_decodeWord w)

/-- An instruction that completes leaves its record at the SCAN it started from. -/
theorem record_of_exec_eq_next {i : Instr} {s t : State} (hscan : s.scan < s.prog.length)
    (h : exec i s = .next t) : t.prog[s.scan]? = some (some (describe s.params s.config i)) := by
  obtain ⟨-, -, rfl⟩ := exec_eq_next.1 h
  exact List.getElem?_set_self hscan

/-! ## Operands written out -/

/-- The name of an address (44_program_disassembler.md R192). -/
theorem label_eq (a : Nat) : label a = "label_0x".toList ++ hexl a := rfl

/-- The mode word of `irq` with the space after it (43_instruction_decoder.md R173). -/
theorem irqMode_append_space (clr wait : Bool) :
    irqMode clr wait ++ " ".toList =
      if clr then "clear ".toList else if wait then "wait ".toList else "nowait ".toList := by
  cases clr with
  | true => rfl
  | false => cases wait <;> rfl

/-! ## Texts with the default templates -/

section
variable {p : Params} (h : p.templates = defaultTemplates)
include h

theorem jmpText_of_defaultTemplates (cond : BitVec 3) (addr : BitVec 5) :
    jmpText p cond addr = "jmp ".toList ++
      ((if p.tables.cond.entry cond = some [] then [] else lookup (p.tables.cond.entry cond) ++ " ".toList) ++
        label addr.toNat) := by
  rw [jmpText, h, defaultTemplates_jmp, printTemplate_optionalWordTemplate, conditionText_eq]
  by_cases halways : p.tables.cond.entry cond = some []
  · rw [if_pos halways, if_pos halways]; rfl
  · rw [if_neg halways, if_neg halways]; rfl

theorem outText_of_defaultTemplates (dst : BitVec 3) (bitcount : BitVec 5) :
    outText p dst bitcount =
      "out ".toList ++ (lookup (p.tables.outDst.entry dst) ++ (p.sep ++ bitcountText bitcount)) := by
  rw [outText, h]
  exact printTemplate_operandTemplate "out" p.sep _ _

theorem pushText_of_defaultTemplates (cflag block : Bool) :
    pushText p cflag block =
      (match cflag, block with
        | false, false => "push noblock"
        | false, true => "push block"
        | true, false => "push iffull noblock"
        | true, true => "push iffull block").toList := by
  rw [pushText, h, defaultTemplates_push, printTemplate_optionalWordTemplate]
  cases cflag <;> cases block <;> rfl

theorem pullText_of_defaultTemplates (cflag block : Bool) :
    pullText p cflag block =
      (match cflag, block with
        | false, false => "pull noblock"
        | false, true => "pull block"
        | true, false => "pull ifempty noblock"
        | true, true => "pull ifempty block").toList := by
  rw [pullText, h, defaultTemplates_pull, printTemplate_optionalWordTemplate]
  cases cflag <;> cases block <;> rfl

theorem movText_of_defaultTemplates (dst : BitVec 3) (op : BitVec 2) (src : BitVec 3) :
    movText p dst op src =
      "mov ".toList ++ (lookup (p.tables.movDst.entry dst) ++ (p.sep ++
        (lookup (p.tables.movOp.entry op) ++ lookup (p.tables.movSrc.entry src)))) := by
  rw [movText, h]
  exact printTemplate_operandTemplate "mov" p.sep _ _

theorem irqText_of_defaultTemplates (clr wait : Bool) (index : BitVec 5) :
    irqText p clr wait index =
      "irq ".toList ++ ((irqMode clr wait ++ " ".toList) ++
        (dec (effIndex index) ++ (" ".toList ++ p.irqNote))) := by
  rw [irqText, h, List.append_assoc]
  exact printTemplate_threeWordTemplate "irq" p.sep _ _ _

theorem setText_of_defaultTemplates (dst : BitVec 3) (data : BitVec 5) :
    setText p dst data =
      "set ".toList ++ (lookup (p.tables.setDst.entry dst) ++ (p.sep ++ fieldText data)) := by
  rw [setText, h]
  exact printTemplate_operandTemplate "set" p.sep _ _

end

/-! ## Texts with any templates -/

/-- The template of `wait` is no parameter (43_instruction_decoder.md R167). -/
theorem waitText_eq (p : Params) (pol : BitVec 1) (src : BitVec 2) (index : BitVec 5) :
    waitText p pol src index =
      "wait ".toList ++ (fieldText pol ++ (" ".toList ++ (lookup (p.tables.waitSrc.entry src) ++
        (" ".toList ++ fieldText index)))) :=
  printTemplate_threeWordTemplate "wait" p.sep _ _ _

/-- The fragment the source fixes (43_instruction_decoder.md R165). -/
theorem setText_pins_zero {p : Params} {dst : BitVec 3} (h : p.admissible = true)
    (hdst : lookup (p.tables.setDst.entry dst) = "PINS".toList) : setText p dst 0 = "set PINS,0".toList := by
  obtain ⟨-, -, -, hfragment⟩ := params_admissible_iff.1 h
  rw [setText, hdst]
  exact params_printsSetFragment_iff.1 hfragment

end Sys2Proof.Machine

open Sys2Proof Sys2Proof.Machine

/-- Settles O15: the decoded instruction is that of class and operand byte with the word's tail, and the tail is read
by the side-set text only. -/
theorem sidesetTextAndMnemonicAreIndependent : Obligations.SidesetTextAndMnemonicAreIndependent := by
  intro p c c' w v
  refine ⟨fun htail => ?_, decodeRecord_sidesetText p c w, fun hclass hoperand => ?_⟩
  · rw [decodeRecord_sidesetText, decodeRecord_sidesetText, htail]
  · have hinstr := decodeWord_eq_withTail hclass hoperand
    simp [decodeRecord, describe, hinstr]

/-- Settles O27: both states hold the record of the instruction under the configuration and the constants they share. -/
theorem recordsDoNotDependOnTheirAddress : Obligations.RecordsDoNotDependOnTheirAddress := by
  intro i s s' t t' hconfig hparams hscan hscan' hexec hexec'
  rw [record_of_exec_eq_next hscan hexec, record_of_exec_eq_next hscan' hexec', hconfig, hparams]

/-- Settles O16: `jmp` stores its record like every instruction; the "always" condition is left out. -/
theorem jmpStoresConditionLabelAndTarget : Obligations.JmpStoresConditionLabelAndTarget := by
  intro s tail cond addr hready hscan
  obtain ⟨t, hexec, hrecord⟩ := exec_recordedAt hready hscan (.jmp tail cond addr)
  refine ⟨t, jmpText s.params cond addr, hexec, hrecord, ?_, fun hdefault => ?_⟩
  · rw [jmpText, conditionText_eq, label_eq]
  · rw [jmpText_of_defaultTemplates hdefault, label_eq]

/-- Settles O17: the template of `wait` holds for all parameters, and so does its text. -/
theorem waitStoresPolaritySourceIndex : Obligations.WaitStoresPolaritySourceIndex := by
  intro s tail pol src index hready hscan
  obtain ⟨t, hexec, hrecord⟩ := exec_recordedAt hready hscan (.wait tail pol src index)
  exact ⟨t, waitText s.params pol src index, hexec, hrecord, rfl, waitText_eq s.params pol src index⟩

/-- Settles O19: the record of `out` has no target; its text has the bit count 0 as 32. -/
theorem outStoresDestinationAndBitCount : Obligations.OutStoresDestinationAndBitCount := by
  intro s tail dst bitcount hready hscan
  obtain ⟨t, hexec, hrecord⟩ := exec_recordedAt hready hscan (.out tail dst bitcount)
  refine ⟨t, outText s.params dst bitcount, hexec, hrecord, ?_, fun hdefault => ?_⟩
  · rw [outText, bitcountText_eq]
  · rw [outText_of_defaultTemplates hdefault, bitcountText_eq]

/-- Settles O20. -/
theorem pushStoresItsFourForms : Obligations.PushStoresItsFourForms := by
  intro s tail cflag block hready hscan
  obtain ⟨t, hexec, hrecord⟩ := exec_recordedAt hready hscan (.push tail cflag block)
  exact ⟨t, pushText s.params cflag block, hexec, hrecord, rfl,
    fun hdefault => pushText_of_defaultTemplates hdefault cflag block⟩

/-- Settles O21. -/
theorem pullStoresItsFourForms : Obligations.PullStoresItsFourForms := by
  intro s tail cflag block hready hscan
  obtain ⟨t, hexec, hrecord⟩ := exec_recordedAt hready hscan (.pull tail cflag block)
  exact ⟨t, pullText s.params cflag block, hexec, hrecord, rfl,
    fun hdefault => pullText_of_defaultTemplates hdefault cflag block⟩

/-- Settles O22: the record of `mov` has no target. -/
theorem movStoresDestinationOperationSource : Obligations.MovStoresDestinationOperationSource := by
  intro s tail dst op src hready hscan
  obtain ⟨t, hexec, hrecord⟩ := exec_recordedAt hready hscan (.mov tail dst op src)
  exact ⟨t, movText s.params dst op src, hexec, hrecord, rfl,
    fun hdefault => movText_of_defaultTemplates hdefault dst op src⟩

/-- Settles O23: the effective index is the raw one modulo 8, and the note is an operand of every `irq`. -/
theorem irqStoresModeIndexAndNote : Obligations.IrqStoresModeIndexAndNote := by
  intro s tail clr wait index hready hscan
  obtain ⟨t, hexec, hrecord⟩ := exec_recordedAt hready hscan (.irq tail clr wait index)
  refine ⟨t, irqText s.params clr wait index, hexec, hrecord, ?_, fun hdefault => ?_⟩
  · rw [irqText, irqMode, effIndex_eq_mod]
  · rw [irqText_of_defaultTemplates hdefault, irqMode_append_space, effIndex_eq_mod]

/-- Settles O24: the fragment is the admissible template's own. -/
theorem setStoresDestinationAndData : Obligations.SetStoresDestinationAndData := by
  intro s tail dst data hready hscan
  obtain ⟨t, hexec, hrecord⟩ := exec_recordedAt hready hscan (.set tail dst data)
  refine ⟨t, setText s.params dst data, hexec, hrecord, rfl, ?_,
    fun hdefault => setText_of_defaultTemplates hdefault dst data⟩
  rintro hadmissible hdst rfl
  exact setText_pins_zero hadmissible hdst

end

section
/-! PROOFS. Progress: where a step of the block or a move of the host has a next state. -/

namespace Sys2Proof.Machine

/-! ## Moves of the host -/

/-- Reset and start have their next state in every phase. -/
theorem exists_hostStep_of_reset_or_start (s : State) {m : HostMove} (h : m = .reset ∨ m = .start) :
    ∃ t, HostStep s m t := by
  rcases h with rfl | rfl
  · exact ⟨_, .reset⟩
  · exact ⟨_, hostMove_eq_next.1 rfl⟩

/-- In IDLE every move has its next state. -/
theorem exists_hostStep_of_idle {s : State} (hidle : s.phase = .idle) (m : HostMove) : ∃ t, HostStep s m t := by
  cases m with
  | writeWidth w => exact ⟨_, .writeWidth w hidle⟩
  | writeEn e => exact ⟨_, .writeEn e hidle⟩
  | loadBytes bytes =>
    cases hshape : inputShapeOk bytes with
    | true => exact ⟨_, .loadBytes bytes hidle hshape⟩
    | false => exact ⟨_, .loadOddBytes bytes hidle hshape⟩
  | loadWords ws => exact ⟨_, .loadWords ws hidle⟩
  | reset => exact exists_hostStep_of_reset_or_start s (.inl rfl)
  | start => exact exists_hostStep_of_reset_or_start s (.inr rfl)

/-- The moves that do not write the configuration or the program are reset and start. -/
theorem reset_or_start_of_not_writesInput {s : State} {m : HostMove} (hm : nextMove s = some m)
    (h : nextMoveWritesInput s = false) : m = .reset ∨ m = .start := by
  rw [nextMoveWritesInput, nextMove_eq_some.1 hm] at h
  cases m with
  | reset => exact .inl rfl
  | start => exact .inr rfl
  | writeWidth | writeEn | loadBytes | loadWords => cases h

/-! ## The block -/

/-- Below N word memory holds a word. -/
theorem MemoryHoldsProgram.exists_readWord {s : State} (h : MemoryHoldsProgram s) {a : Nat} (ha : a < s.n) :
    ∃ w, Memory.readWord s.wmem a = some w :=
  ⟨_, (h.readWord_eq a).trans (List.getElem?_eq_getElem (h.loadedWords_length.symm ▸ ha))⟩

/-- Once the program is decoded, PROG holds a record at each address below N. -/
theorem MemoryHoldsProgram.exists_record {s : State} (h : MemoryHoldsProgram s)
    (hprog : s.prog = (programFor s).map some) {a : Nat} (ha : a < s.n) :
    ∃ d, s.prog[a]? = some (some d) := by
  have hlen : a < (programFor s).length := h.programFor_length.symm ▸ ha
  exact ⟨_, by rw [hprog, List.getElem?_map, List.getElem?_eq_getElem hlen]; rfl⟩

/-- In a good state the block has its next state in every phase: below N what the step reads is there. -/
theorem Inv.exists_blockStep {s : State} (hinv : Inv s) : ∃ t, BlockStep s t := by
  cases hphase : s.phase with
  | idle => exact ⟨_, .rest (.inl hphase)⟩
  | done => exact ⟨_, .rest (.inr hphase)⟩
  | decode =>
    obtain ⟨hmem, -, ⟨hready, -⟩, -⟩ := (inv_decode_iff hphase).1 hinv
    rcases Nat.lt_or_ge s.scan s.n with hlt | hge
    · obtain ⟨w, hw⟩ := hmem.exists_readWord hlt
      exact ⟨_, .decode w hphase hlt hw hready⟩
    · exact ⟨_, .decodeEnd hphase hge⟩
  | collect =>
    obtain ⟨hmem, -, -, hprog, -⟩ := (inv_collect_iff hphase).1 hinv
    rcases Nat.lt_or_ge s.scan s.n with hlt | hge
    · obtain ⟨d, hd⟩ := hmem.exists_record hprog hlt
      exact ⟨_, .collect d hphase hlt hd⟩
    · exact ⟨_, .collectEnd hphase hge⟩
  | emit =>
    obtain ⟨hmem, -, -, hprog, -⟩ := (inv_emit_iff hphase).1 hinv
    rcases Nat.lt_or_ge s.scan s.n with hlt | hge
    · obtain ⟨d, hd⟩ := hmem.exists_record hprog hlt
      exact ⟨_, .emit d hphase hlt hd⟩
    · exact ⟨_, .emitEnd hphase hge⟩

end Sys2Proof.Machine

open Sys2Proof.Machine

/-- Settles O39: the block finds what it reads, and outside IDLE the host's moves are reset and start. -/
theorem noStepStopsInAGoodState : Obligations.NoStepStopsInAGoodState := by
  intro s hinv hwrites
  have hused : Inv (useEntry s) := inv_hostMoves.2 hinv
  simp only [step_eq_next]
  cases hm : nextMove s with
  | none =>
    obtain ⟨t, ht⟩ := hused.exists_blockStep
    exact ⟨t, .inl ⟨rfl, ht⟩⟩
  | some m =>
    have hhost : ∃ t, HostStep (useEntry s) m t := by
      cases hw : nextMoveWritesInput s with
      | true => exact exists_hostStep_of_idle (s := useEntry s) (hwrites hw) m
      | false => exact exists_hostStep_of_reset_or_start _ (reset_or_start_of_not_writesInput hm hw)
    obtain ⟨t, ht⟩ := hhost
    exact ⟨t, .inr ⟨m, rfl, ht⟩⟩

end

section
/-! PROOFS. The steps of a run one by one: what each does to a state without host moves, and the step after a word was
placed. -/

namespace Sys2Proof.Machine

/-! ## The block's turn -/

/-- Without a host move, what the block does is the step. -/
theorem step_of_blockStep {s t : State} (hmoves : s.hostMoves = []) (h : BlockStep s t) : step s = .next t :=
  (step_of_noMoves hmoves).trans (coreStep_eq_next.2 h)

/-- An entry without a move leaves the step to the block. -/
theorem step_of_none {s : State} {rest : List (Option HostMove)} (h : s.hostMoves = none :: rest) :
    step s = coreStep { s with hostMoves := rest } := by
  simp [step, nextStep, h]

/-- The instruction at SCAN is the one its bytes decode to. -/
theorem fetch_of_decodeBytes {s : State} {i : Instr} {rest : List Byte}
    (h : decodeBytes (Memory.fetchBytes s.wmem s.scan) = .ok (i, rest)) : fetch s = .ok i := by
  simp [fetch, h]

/-- In DECODE below N the block runs the instruction it fetches, whether that completes or stops. -/
theorem coreStep_of_fetch {s : State} {i : Instr} (hphase : s.phase = .decode) (hlt : s.scan < s.n)
    (hfetch : fetch s = .ok i) : coreStep s = exec i s := by
  rw [coreStep_eq, if_pos hphase, decodeStep, if_pos hlt, hfetch]

/-! ## What COLLECT and EMIT append -/

theorem putTarget_of_not_mem {s : State} {a : Nat} (h : a ∉ s.ref) :
    putTarget (some a) s = { s with ref := s.ref ++ [a], scan := s.scan + 1 } := by
  rw [putTarget, collectTarget, addRef, if_neg h]

theorem putTarget_of_mem {s : State} {a : Nat} (h : a ∈ s.ref) :
    putTarget (some a) s = { s with scan := s.scan + 1 } := by
  rw [putTarget, collectTarget, addRef, if_pos h]

theorem putTarget_none (s : State) : putTarget none s = { s with scan := s.scan + 1 } := rfl

theorem putEmission_of_mem {s : State} {d : DecodedInstruction} (h : s.scan ∈ s.ref) :
    putEmission d s =
      { s with
        out := s.out ++ [.label s.scan, .instr s.scan d.mnemonic d.sidesetText]
        scan := s.scan + 1 } := by
  rw [putEmission, recordsOf_eq, if_pos h]

theorem putEmission_of_not_mem {s : State} {d : DecodedInstruction} (h : s.scan ∉ s.ref) :
    putEmission d s =
      { s with out := s.out ++ [.instr s.scan d.mnemonic d.sidesetText], scan := s.scan + 1 } := by
  rw [putEmission, recordsOf_eq, if_neg h]

/-! ## Placing a word -/

/-- A table word of 16 bits is the word itself. -/
theorem tableWord_sixteen {w : Nat} (h : w < 65536) : tableWord 16 w = BitVec.ofNat 16 w :=
  congrArg (BitVec.ofNat 16) (Nat.mod_eq_of_lt h)

/-- The state's own configuration is kept where it may be read; else (0, false) is written. -/
theorem ensureConfig_cases (s : State) :
    (ConfigReady s ∧ ensureConfig s = s) ∨ ensureConfig s = writeCfgEn false (writeCfgWidth 0 s) := by
  unfold ensureConfig
  cases h : readConfig s with
  | ok c =>
    obtain ⟨hwritten, hlegal, -⟩ := readConfig_eq_ok.1 h
    exact .inl ⟨⟨hwritten, hlegal⟩, rfl⟩
  | error r => exact .inr rfl

theorem configReady_ensureConfig (s : State) : ConfigReady (ensureConfig s) := by
  rcases ensureConfig_cases s with ⟨hready, heq⟩ | heq <;> rw [heq]
  · exact hready
  · exact ⟨rfl, rfl⟩

@[simp] theorem ensureConfig_params (s : State) : (ensureConfig s).params = s.params := by
  rcases ensureConfig_cases s with ⟨-, heq⟩ | heq <;> rw [heq]
  rfl

@[simp] theorem ensureConfig_scan (s : State) : (ensureConfig s).scan = s.scan := by
  rcases ensureConfig_cases s with ⟨-, heq⟩ | heq <;> rw [heq]
  rfl

@[simp] theorem placeWord_scan (w : Word) (s : State) : (placeWord w s).scan = s.scan := ensureConfig_scan s

@[simp] theorem placeWord_params (w : Word) (s : State) : (placeWord w s).params = s.params := ensureConfig_params s

theorem configReady_placeWord (w : Word) (s : State) : ConfigReady (placeWord w s) := configReady_ensureConfig s

/-- The placed word is the one at SCAN. -/
theorem readWord_placeWord (w : Word) (s : State) :
    Memory.readWord (placeWord w s).wmem (placeWord w s).scan = some w := by
  rw [placeWord_scan]
  exact Memory.readWord_writeWord s.wmem s.scan w

theorem placeWord_scan_lt_n (w : Word) (s : State) : (placeWord w s).scan < (placeWord w s).n := by
  rw [placeWord_scan]
  exact Nat.le_max_right s.n (s.scan + 1)

theorem placeWord_scan_lt_prog (w : Word) (s : State) : (placeWord w s).scan < (placeWord w s).prog.length := by
  have hprog : (placeWord w s).prog = s.prog ++ List.replicate (max s.n (s.scan + 1) - s.prog.length) none := rfl
  rw [placeWord_scan, hprog, List.length_append, List.length_replicate]
  omega

end Sys2Proof.Machine

open Sys2Proof Sys2Proof.Machine

/-- Settles O28: whoever uses up the entry, the block's step in DECODE below N is `exec` of what it fetches. -/
theorem stepRunsTheDecodedInstruction : Obligations.StepRunsTheDecodedInstruction := by
  intro s i rest hphase hlt hbytes
  have hfetch : fetch s = .ok i := fetch_of_decodeBytes hbytes
  refine ⟨fun hmoves => ?_, fun moves hmoves => ?_⟩
  · rw [step_of_noMoves hmoves, coreStep_of_fetch hphase hlt hfetch]
  · rw [step_of_none hmoves]
    exact coreStep_of_fetch hphase hlt hfetch

/-- Settles O29. -/
theorem decodeStepStoresTheRecordOfTheWord : Obligations.DecodeStepStoresTheRecordOfTheWord := by
  intro s hphase hmoves hready
  refine ⟨fun w hlt hlen hword => ?_, fun hend => ?_⟩
  · exact ⟨_, step_of_blockStep hmoves (.decode w hphase hlt hword hready), recordedAt_putRecord hlen _⟩
  · exact step_of_blockStep hmoves (.decodeEnd hphase hend.ge)

/-- Settles O30: the step is `putTarget`, by the three cases of a target. -/
theorem collectStepAppendsNewTargets : Obligations.CollectStepAppendsNewTargets := by
  intro s hphase hmoves
  refine ⟨fun d hlt hd => ?_, fun hend => step_of_blockStep hmoves (.collectEnd hphase hend.ge)⟩
  have hstep : step s = .next (putTarget d.target s) := step_of_blockStep hmoves (.collect d hphase hlt hd)
  refine ⟨fun a htarget hnew => ?_, fun a htarget hold => ?_, fun htarget => ?_⟩
  · rw [hstep, htarget, putTarget_of_not_mem hnew]
  · rw [hstep, htarget, putTarget_of_mem hold]
  · rw [hstep, htarget, putTarget_none]

/-- Settles O31: the step is `putEmission`, with a label or without. -/
theorem emitStepAppendsLabelAndInstruction : Obligations.EmitStepAppendsLabelAndInstruction := by
  intro s hphase hmoves
  refine ⟨fun d hlt hd => ?_, fun hend => step_of_blockStep hmoves (.emitEnd hphase hend.ge)⟩
  have hstep : step s = .next (putEmission d s) := step_of_blockStep hmoves (.emit d hphase hlt hd)
  refine ⟨fun hlabel => ?_, fun hlabel => ?_⟩
  · rw [hstep, putEmission_of_mem hlabel]
  · rw [hstep, putEmission_of_not_mem hlabel]

/-- Settles O32. -/
theorem idleAndDoneDoNotChange : Obligations.IdleAndDoneDoNotChange := fun _ hphase hmoves =>
  step_of_blockStep hmoves (.rest hphase)

/-- Settles O60: with the word placed at SCAN the next step is the DECODE step of O29. -/
theorem aPlacedWordIsDecodedNext : Obligations.APlacedWordIsDecodedNext := by
  intro s w hw
  rw [State.withFetchWord, tableWord_sixteen hw]
  obtain ⟨hdecode, -⟩ := decodeStepStoresTheRecordOfTheWord (placeWord (BitVec.ofNat 16 w) s) rfl rfl
    (configReady_placeWord _ s)
  obtain ⟨t, hstep, hrecord, hscan, -⟩ := hdecode (BitVec.ofNat 16 w) (placeWord_scan_lt_n _ s)
    (placeWord_scan_lt_prog _ s) (readWord_placeWord _ s)
  rw [placeWord_scan, placeWord_params] at hrecord
  rw [placeWord_scan] at hscan
  exact ⟨t, hstep, hscan, hrecord⟩

end

section
/-! PROOFS. The function `disassemble`: which addresses it references, which it labels, and in what order it emits. -/

namespace Sys2Proof.Machine

/-! ## References -/

/-- An address is referenced exactly if it is a record's target (44_program_disassembler.md R193). -/
theorem mem_referencesOf {ds : List DecodedInstruction} {a : Nat} :
    a ∈ referencesOf ds ↔ ∃ d ∈ ds, d.target = some a := by
  rw [referencesOf, mem_dedupFirst, List.mem_filterMap]

/-- Only a JMP word has a target, its address field (43_instruction_decoder.md R176). -/
theorem targetOf_decodeWord {w : Word} {a : Nat} :
    targetOf (decodeWord w) = some a ↔ classOfNumber (opcodeClass w) = .jmp ∧ (slice w 0 5).toNat = a := by
  cases hc : classOfNumber (opcodeClass w) with
  | jmp => simp [decodeWord_jmp hc, targetOf]
  | wait => simp [decodeWord_wait hc, targetOf]
  | in_ => simp [decodeWord_in hc, targetOf]
  | out => simp [decodeWord_out hc, targetOf]
  | pushPull =>
    cases h7 : bitAt w 7 with
    | false => simp [decodeWord_push hc h7, targetOf]
    | true => simp [decodeWord_pull hc h7, targetOf]
  | mov => simp [decodeWord_mov hc, targetOf]
  | irq => simp [decodeWord_irq hc, targetOf]
  | set => simp [decodeWord_set hc, targetOf]

/-- The references of a program are the address fields of its JMP words. -/
theorem mem_referencesOf_programOf {p : Params} {c : SidesetConfig} {ws : List Word} {a : Nat} :
    a ∈ referencesOf (programOf p c ws) ↔
      ∃ w ∈ ws, classOfNumber (opcodeClass w) = .jmp ∧ (slice w 0 5).toNat = a := by
  rw [referencesOf, mem_dedupFirst, programOf, List.filterMap_map, List.mem_filterMap]
  exact exists_congr fun w => and_congr_right fun _ => targetOf_decodeWord

/-- Collecting one target after the other keeps first occurrences. -/
theorem foldl_addRef (ts : List Nat) : ts.foldl addRef [] = dedupFirst ts := by
  induction ts using List.reverseRecOn with
  | nil => rfl
  | append_singleton ts t ih => rw [List.foldl_concat, ih, dedupFirst_snoc]

@[simp] theorem programOf_length (p : Params) (c : SidesetConfig) (ws : List Word) :
    (programOf p c ws).length = ws.length := List.length_map _

/-! ## The records of one address, and of a stream -/

@[simp] theorem labelsIn_append (xs ys : List EmitRecord) : labelsIn (xs ++ ys) = labelsIn xs ++ labelsIn ys :=
  List.filterMap_append

@[simp] theorem instrsIn_append (xs ys : List EmitRecord) : instrsIn (xs ++ ys) = instrsIn xs ++ instrsIn ys :=
  List.filterMap_append

@[simp] theorem labelsIn_recordsOf (ref : List Nat) (a : Nat) (d : DecodedInstruction) :
    labelsIn (recordsOf ref a d) = if a ∈ ref then [a] else [] := by
  rw [recordsOf_eq]
  split <;> rfl

@[simp] theorem instrsIn_recordsOf (ref : List Nat) (a : Nat) (d : DecodedInstruction) :
    instrsIn (recordsOf ref a d) = [(a, d.mnemonic, d.sidesetText)] := by
  rw [recordsOf_eq]
  split <;> rfl

/-- The label of an address is among its records only if the address is referenced. -/
theorem label_mem_recordsOf {ref : List Nat} {a k : Nat} {d : DecodedInstruction} :
    EmitRecord.label a ∈ recordsOf ref k d ↔ a = k ∧ k ∈ ref := by
  by_cases h : k ∈ ref <;> simp [recordsOf_eq, h]

theorem mem_labelsIn {out : List EmitRecord} {a : Nat} : a ∈ labelsIn out ↔ EmitRecord.label a ∈ out := by
  induction out with
  | nil => simp [labelsIn]
  | cons r out ih =>
    cases r with
    | label b => simpa [labelsIn] using or_congr_right ih
    | instr b m t => simpa [labelsIn] using ih

/-- Every record is a label or an instruction. -/
theorem length_eq_labelsIn_add_instrsIn (out : List EmitRecord) :
    out.length = (labelsIn out).length + (instrsIn out).length := by
  induction out with
  | nil => rfl
  | cons r out ih =>
    cases r with
    | label | instr =>
      simp only [labelsIn, instrsIn, List.filterMap_cons, List.length_cons] at ih ⊢
      omega

/-! ## The emission stream, from any address on -/

section
variable (ref : List Nat) (k : Nat) (ds : List DecodedInstruction)

/-- The stream is the records of each address in turn (44_program_disassembler.md R197). -/
theorem emissionFrom_eq_flatMap :
    emissionFrom ref k ds = (ds.zipIdx k).flatMap fun e => recordsOf ref e.2 e.1 := by
  induction ds generalizing k with
  | nil => rfl
  | cons d ds ih => simp [emissionFrom, ih]

/-- Exactly one instruction record for each address. -/
theorem instrsIn_emissionFrom :
    instrsIn (emissionFrom ref k ds) = (ds.zipIdx k).map fun e => (e.2, e.1.mnemonic, e.1.sidesetText) := by
  induction ds generalizing k with
  | nil => rfl
  | cons d ds ih => simp [emissionFrom, ih]

/-- A label record for each referenced address and no other, in address order (44_program_disassembler.md R196). -/
theorem labelsIn_emissionFrom :
    labelsIn (emissionFrom ref k ds) = (List.range' k ds.length).filter fun a => decide (a ∈ ref) := by
  induction ds generalizing k with
  | nil => rfl
  | cons d ds ih =>
    by_cases h : k ∈ ref <;> simp [emissionFrom, ih, List.range'_succ, h]

variable {ref k ds}

/-- A label stands directly before the instruction of its address. -/
theorem exists_split_at_label {a : Nat} (h : EmitRecord.label a ∈ emissionFrom ref k ds) :
    ∃ before after m t, emissionFrom ref k ds = before ++ (.label a :: .instr a m t :: after) := by
  induction ds generalizing k with
  | nil => simp [emissionFrom] at h
  | cons d ds ih =>
    rcases List.mem_append.1 h with hhere | hlater
    · obtain ⟨rfl, href⟩ := label_mem_recordsOf.1 hhere
      exact ⟨[], emissionFrom ref (a + 1) ds, d.mnemonic, d.sidesetText, by simp [emissionFrom, recordsOf_eq, href]⟩
    · obtain ⟨before, after, m, t, hsplit⟩ := ih hlater
      exact ⟨recordsOf ref k d ++ before, after, m, t, by simp [emissionFrom, hsplit]⟩

end

/-! ## The labels of a program -/

section
variable (p : Params) (c : SidesetConfig) (ws : List Word)

theorem labelsIn_disassemble :
    labelsIn (disassemble p c ws).2.2 =
      (List.range ws.length).filter fun a => decide (a ∈ (disassemble p c ws).2.1) := by
  rw [List.range_eq_range', ← programOf_length p c ws]
  exact labelsIn_emissionFrom _ 0 _

theorem instrsIn_disassemble :
    instrsIn (disassemble p c ws).2.2 =
      (disassemble p c ws).1.zipIdx.map fun e => (e.2, e.1.mnemonic, e.1.sidesetText) :=
  instrsIn_emissionFrom _ 0 _

theorem refWellFormed_disassemble : RefWellFormed (disassemble p c ws).2.1 :=
  refWellFormed_referencesOf (List.Subset.refl (programOf p c ws))

variable {p c ws}

theorem mem_labelsIn_disassemble {a : Nat} :
    a ∈ labelsIn (disassemble p c ws).2.2 ↔ a < ws.length ∧ a ∈ (disassemble p c ws).2.1 := by
  simp [labelsIn_disassemble]

variable (p c ws)

/-- As many labels as references below N: both lists are without duplicates and hold the same addresses. -/
theorem labelsIn_disassemble_length :
    (labelsIn (disassemble p c ws).2.2).length =
      ((disassemble p c ws).2.1.filter fun a => decide (a < ws.length)).length := by
  obtain ⟨hnodup, -⟩ := refWellFormed_disassemble p c ws
  have hlabels : (labelsIn (disassemble p c ws).2.2).Nodup := by
    rw [labelsIn_disassemble]
    exact List.nodup_range.filter _
  refine ((List.perm_ext_iff_of_nodup hlabels (hnodup.filter _)).2 fun a => ?_).length_eq
  rw [mem_labelsIn_disassemble, List.mem_filter, decide_eq_true_iff, and_comm]

/-- At most one label for each word, and for each of the 32 addresses a `jmp` can name. -/
theorem labelsIn_disassemble_length_le : (labelsIn (disassemble p c ws).2.2).length ≤ min ws.length 32 := by
  refine Nat.le_min.2 ⟨?_, ?_⟩
  · rw [labelsIn_disassemble]
    exact (List.length_filter_le _ _).trans_eq List.length_range
  · rw [labelsIn_disassemble_length]
    exact (List.length_filter_le _ _).trans (refWellFormed_disassemble p c ws).length_le

theorem instrsIn_disassemble_length : (instrsIn (disassemble p c ws).2.2).length = ws.length := by
  rw [instrsIn_disassemble, List.length_map, List.length_zipIdx]
  exact programOf_length p c ws

end

/-! ## The text of a jump -/

theorem decodeRecord_jmp (p : Params) (c : SidesetConfig) {w : Word} (hc : classOfNumber (opcodeClass w) = .jmp) :
    decodeRecord p c w =
      ⟨jmpText p (slice w 5 3) (slice w 0 5), some (slice w 0 5).toNat, ssd c (tailOf w)⟩ := by
  rw [decodeRecord, decodeWord_jmp hc]; rfl

/-- With the default template the label ends the text of a `jmp`. -/
theorem label_suffix_jmpText {p : Params} (h : p.templates = defaultTemplates) (cond : BitVec 3) (addr : BitVec 5) :
    label addr.toNat <:+ jmpText p cond addr := by
  rw [jmpText_of_defaultTemplates h, ← List.append_assoc]
  exact List.suffix_append _ _

end Sys2Proof.Machine

open Sys2Proof Sys2Proof.Machine

/-- Settles O44. -/
theorem referencesAreTheJumpAddresses : Obligations.ReferencesAreTheJumpAddresses := fun _ _ _ _ =>
  ⟨mem_referencesOf, mem_referencesOf_programOf⟩

/-- Settles O45, by induction from the end of the list, where a target is collected. -/
theorem collectingKeepsFirstOccurrences : Obligations.CollectingKeepsFirstOccurrences := fun ts =>
  ⟨foldl_addRef ts, nodup_dedupFirst ts⟩

/-- Settles O46: a label's address is referenced, so it is the value of a 5-bit field. -/
theorem labelsAreTheReferencedAddresses : Obligations.LabelsAreTheReferencedAddresses := by
  intro p c ws
  obtain ⟨-, hlt⟩ := refWellFormed_disassemble p c ws
  refine ⟨labelsIn_disassemble p c ws, fun a ha => ?_⟩
  obtain ⟨-, href⟩ := mem_labelsIn_disassemble.1 ha
  exact hlt a href

/-- Settles O47. -/
theorem instructionsAreEmittedInOrderAfterTheirLabels : Obligations.InstructionsAreEmittedInOrderAfterTheirLabels :=
  fun p c ws =>
    ⟨emissionFrom_eq_flatMap _ 0 _, instrsIn_disassemble p c ws, labelsIn_disassemble_length p c ws,
      fun _ => exists_split_at_label⟩

/-- Settles O48: the stream is its N instruction records and its labels, at most one for each of N and of 32. -/
theorem outputCountsOfARun : Obligations.OutputCountsOfARun := by
  intro p c ws
  have hinstrs := instrsIn_disassemble_length p c ws
  have hlabels := labelsIn_disassemble_length_le p c ws
  have hlength := length_eq_labelsIn_add_instrsIn (disassemble p c ws).2.2
  refine ⟨programOf_length p c ws, hinstrs, labelsIn_disassemble_length p c ws, by omega, by omega, ?_⟩
  rintro rfl
  rfl

/-- Settles O49: the target is referenced, but only addresses below N have a label. -/
theorem jumpBeyondTheEndGetsNoLabel : Obligations.JumpBeyondTheEndGetsNoLabel := by
  intro p c ws w hw hjmp hbeyond
  refine ⟨mem_referencesOf_programOf.2 ⟨w, hw, hjmp, rfl⟩, fun hlabel => ?_, fun hdefault => ?_⟩
  · obtain ⟨hlt, -⟩ := mem_labelsIn_disassemble.1 (mem_labelsIn.2 hlabel)
    exact absurd hlt (Nat.not_lt.2 hbeyond)
  · rw [decodeRecord_jmp p c hjmp]
    exact label_suffix_jmpText hdefault _ _

end

section
/-! PROOFS. Whole runs: how many steps a started run has left, what it keeps, and what it leaves in DONE. -/

namespace Sys2Proof.Machine

/-! ## A run that is left alone -/

/-- A started run in a good state, with no host move to come. -/
structure Running (s : State) : Prop where
  inv : Inv s
  noMoves : s.hostMoves = []
  started : s.phase ≠ .idle

/-- The steps to DONE: one for each address from SCAN on and one to leave the phase, then N + 1 for each phase to come
(44_program_disassembler.md R204). -/
def stepsLeft (s : State) : Nat :=
  match s.phase with
  | .idle => 0
  | .decode => (s.n - s.scan + 1) + 2 * (s.n + 1)
  | .collect => (s.n - s.scan + 1) + (s.n + 1)
  | .emit => s.n - s.scan + 1
  | .done => 0

section
variable {s : State}

theorem stepsLeft_decode (h : s.phase = .decode) : stepsLeft s = (s.n - s.scan + 1) + 2 * (s.n + 1) := by
  rw [stepsLeft, h]

theorem stepsLeft_collect (h : s.phase = .collect) : stepsLeft s = (s.n - s.scan + 1) + (s.n + 1) := by
  rw [stepsLeft, h]

theorem stepsLeft_emit (h : s.phase = .emit) : stepsLeft s = s.n - s.scan + 1 := by
  rw [stepsLeft, h]

theorem stepsLeft_done (h : s.phase = .done) : stepsLeft s = 0 := by
  rw [stepsLeft, h]

/-- A started run has no step left exactly in DONE. -/
theorem Running.stepsLeft_eq_zero (h : Running s) : stepsLeft s = 0 ↔ s.phase = .done := by
  cases hphase : s.phase with
  | idle => exact absurd hphase h.started
  | decode => simp [stepsLeft_decode hphase]
  | collect => simp [stepsLeft_collect hphase]
  | emit => simp [stepsLeft_emit hphase]
  | done => simp [stepsLeft_done hphase]

/-- Each step of the block outside IDLE and DONE is one step less to go. -/
theorem stepsLeft_of_blockStep {t : State} (hidle : s.phase ≠ .idle) (hdone : s.phase ≠ .done) (h : BlockStep s t) :
    stepsLeft t + 1 = stepsLeft s := by
  cases h with
  | rest hphase => exact absurd hphase (not_or.2 ⟨hidle, hdone⟩)
  | decode w hphase hlt =>
    rw [stepsLeft_decode hphase, stepsLeft_decode (s := putRecord _ s) hphase, putRecord_n, putRecord_scan]
    omega
  | decodeEnd hphase hge =>
    rw [stepsLeft_decode hphase, stepsLeft_collect (s := enterPhase .collect s) rfl, enterPhase_n, enterPhase_scan]
    omega
  | collect d hphase hlt =>
    rw [stepsLeft_collect hphase, stepsLeft_collect (s := putTarget _ s) hphase, putTarget_n, putTarget_scan]
    omega
  | collectEnd hphase hge =>
    rw [stepsLeft_collect hphase, stepsLeft_emit (s := enterPhase .emit s) rfl, enterPhase_n, enterPhase_scan]
    omega
  | emit d hphase hlt =>
    rw [stepsLeft_emit hphase, stepsLeft_emit (s := putEmission _ s) hphase, putEmission_n, putEmission_scan]
    omega
  | emitEnd hphase hge =>
    rw [stepsLeft_emit hphase, stepsLeft_done (s := endRun s) rfl]
    omega

end

theorem hostMoves_of_blockStep {s t : State} (h : BlockStep s t) : t.hostMoves = s.hostMoves := by
  cases h <;> rfl

/-- The block does not go back to IDLE. -/
theorem phase_ne_idle_of_blockStep {s t : State} (hidle : s.phase ≠ .idle) (h : BlockStep s t) : t.phase ≠ .idle := by
  rcases phase_of_blockStep h with hsame | ⟨-, ⟨-, ht⟩ | ⟨-, ht⟩ | ⟨-, ht⟩⟩
  · rwa [hsame]
  all_goals simp [ht]

/-- From `s` to `t` the run goes on: it is still left alone, with the input and the constants of `s`. -/
structure Continues (s t : State) : Prop where
  running : Running t
  sameInput : SameInput s t
  sameParams : t.params = s.params

theorem Running.continues_self {s : State} (h : Running s) : Continues s s := ⟨h, sameInput_refl s, rfl⟩

theorem SameInput.trans {s t u : State} (hst : SameInput s t) (htu : SameInput t u) : SameInput s u := by
  obtain ⟨hwidth, hen, hwidthWritten, henWritten, hn, hwmem⟩ := hst
  obtain ⟨hwidth', hen', hwidthWritten', henWritten', hn', hwmem'⟩ := htu
  exact ⟨hwidth'.trans hwidth, hen'.trans hen, hwidthWritten'.trans hwidthWritten, henWritten'.trans henWritten,
    hn'.trans hn, hwmem'.trans hwmem⟩

theorem Continues.trans {s t u : State} (hst : Continues s t) (htu : Continues t u) : Continues s u :=
  ⟨htu.running, hst.sameInput.trans htu.sameInput, htu.sameParams.trans hst.sameParams⟩

/-- A run that is not in DONE takes a step of the block. -/
theorem Running.exists_step {s : State} (h : Running s) (hdone : s.phase ≠ .done) :
    ∃ t, step s = .next t ∧ Continues s t ∧ stepsLeft t + 1 = stepsLeft s := by
  obtain ⟨hinv, hmoves, hidle⟩ := h
  obtain ⟨t, hblock⟩ := hinv.exists_blockStep
  have hrunning : Running t :=
    ⟨inv_of_blockStep hinv hblock, (hostMoves_of_blockStep hblock).trans hmoves, phase_ne_idle_of_blockStep hidle hblock⟩
  exact ⟨t, step_of_blockStep hmoves hblock, ⟨hrunning, sameInput_of_blockStep hblock, params_of_blockStep hblock⟩,
    stepsLeft_of_blockStep hidle hdone hblock⟩

/-- A run takes each of the steps it has left. -/
theorem Running.exists_run {k : Nat} {s : State} (h : Running s) (hk : k ≤ stepsLeft s) :
    ∃ t : State, Host.Core.run core k s = .next t ∧ Continues s t ∧ stepsLeft t + k = stepsLeft s := by
  induction k generalizing s with
  | zero => exact ⟨s, rfl, h.continues_self, rfl⟩
  | succ k ih =>
    have hdone : s.phase ≠ .done := fun hphase => by
      rw [stepsLeft_done hphase] at hk
      omega
    obtain ⟨u, hstep, hcontinues, hleft⟩ := h.exists_step hdone
    obtain ⟨t, hrun, hcontinues', hleft'⟩ := ih hcontinues.running (by omega)
    exact ⟨t, (core_run_succ k s hstep).trans hrun, hcontinues.trans hcontinues', by omega⟩

/-- With all its steps taken a run is in DONE. -/
theorem Running.exists_run_to_done {s : State} (h : Running s) :
    ∃ t : State, Host.Core.run core (stepsLeft s) s = .next t ∧ Continues s t ∧ t.phase = .done := by
  obtain ⟨t, hrun, hcontinues, hleft⟩ := h.exists_run le_rfl
  exact ⟨t, hrun, hcontinues, hcontinues.running.stepsLeft_eq_zero.1 (by omega)⟩

/-! ## The outputs in DONE -/

/-- The outputs of a finished run are those of `disassemble` on the program in word memory
(44_program_disassembler.md R205). -/
theorem Inv.outputs_of_done {s : State} (hinv : Inv s) (hphase : s.phase = .done) :
    s.prog = (disassemble s.params s.config (loadedWords s)).1.map some ∧
      s.ref = (disassemble s.params s.config (loadedWords s)).2.1 ∧
      s.out = (disassemble s.params s.config (loadedWords s)).2.2 := by
  obtain ⟨-, -, -, -, houtputs⟩ := (inv_done_iff hphase).1 hinv
  exact houtputs

theorem SameInput.config_eq {s t : State} (h : SameInput s t) : t.config = s.config := by
  obtain ⟨hwidth, hen, -⟩ := h
  rw [State.config, State.config, hwidth, hen]

theorem SameInput.n_eq {s t : State} (h : SameInput s t) : t.n = s.n := by
  obtain ⟨-, -, -, -, hn, -⟩ := h
  exact hn

theorem SameInput.loadedWords_eq {s t : State} (h : SameInput s t) : loadedWords t = loadedWords s := by
  obtain ⟨-, -, -, -, -, hwmem⟩ := h
  rw [loadedWords, loadedWords, hwmem]

/-! ## A run from reset -/

/-- The block after reset, a written configuration and a load. -/
def loadedBlock (p : Params) (c : SidesetConfig) (bytes : List Byte) : State :=
  { State.reset with
    cfgWidth := c.width
    cfgEn := c.en
    cfgWidthWritten := true
    cfgEnWritten := true
    n := bytes.length / 2
    wmem := Memory.ofBytes bytes
    params := p }

/-- A host move is one step of a run. -/
theorem core_run_move {k : Nat} {s t : State} {m : HostMove} {rest : List (Option HostMove)}
    (hmoves : s.hostMoves = some m :: rest) (h : HostStep { s with hostMoves := rest } m t) :
    Host.Core.run core (k + 1) s = Host.Core.run core k t :=
  core_run_succ k s ((step_of_move hmoves).trans (hostMove_eq_next.2 h))

section
variable {p : Params} {c : SidesetConfig} {bytes : List Byte}

theorem inv_loadedBlock (heven : bytes.length % 2 = 0) : Inv (loadedBlock p c bytes) :=
  (inv_idle_iff rfl).2
    ⟨memoryHoldsProgram_of_ofBytes rfl (Nat.mul_div_cancel' (Nat.dvd_of_mod_eq_zero heven)), rfl, rfl, rfl, rfl⟩

theorem startEnabled_loadedBlock (hlegal : c.legal = true) : startEnabled (loadedBlock p c bytes) = true :=
  startEnabled_iff.2 ⟨rfl, rfl, hlegal, rfl⟩

/-- The host's four moves begin a run on the loaded block (70_reset_and_hazards.md R251, R252). -/
theorem core_run_from_reset (hlegal : c.legal = true) (heven : bytes.length % 2 = 0) (k : Nat) :
    Host.Core.run core (k + 4)
        { State.reset with
          params := p
          hostMoves := [some (.writeWidth c.width), some (.writeEn c.en), some (.loadBytes bytes), some .start] } =
      Host.Core.run core k (beginRun (loadedBlock p c bytes)) := by
  have hshape : inputShapeOk bytes = true := by simp [inputShapeOk, heven]
  rw [core_run_move rfl (.writeWidth c.width rfl), core_run_move rfl (.writeEn c.en rfl),
    core_run_move rfl (.loadBytes bytes rfl hshape)]
  exact core_run_move rfl (.start (startEnabled_loadedBlock hlegal))

theorem running_beginRun_loadedBlock (hlegal : c.legal = true) (heven : bytes.length % 2 = 0) :
    Running (beginRun (loadedBlock p c bytes)) :=
  ⟨inv_beginRun (inv_loadedBlock heven) (startEnabled_loadedBlock hlegal), rfl, by simp⟩

theorem loadedWords_loadedBlock (p : Params) (c : SidesetConfig) (bytes : List Byte) :
    loadedWords (loadedBlock p c bytes) = wordsOfBytes bytes :=
  congrArg wordsOfBytes (Memory.ofBytesFrom_bytes bytes 0)

end

/-- A run from its first step has three steps for each word and three more. -/
theorem stepsLeft_of_scan_eq_zero {s : State} (hphase : s.phase = .decode) (hscan : s.scan = 0) :
    stepsLeft s = 3 * (s.n + 1) := by
  rw [stepsLeft_decode hphase, hscan]
  omega

end Sys2Proof.Machine

open Sys2Proof Sys2Proof.Machine

/-- Settles O42: a run has 3 (N + 1) steps left at its beginning, and it is in DONE when none is left. -/
theorem runTakesThreeStepsPerWordAndThreeMore : Obligations.RunTakesThreeStepsPerWordAndThreeMore := by
  intro s hinv hphase hscan hmoves
  have hrunning : Running s := ⟨hinv, hmoves, by simp [hphase]⟩
  rw [← stepsLeft_of_scan_eq_zero hphase hscan]
  refine ⟨fun k hk => ?_, ?_⟩
  · obtain ⟨t, hrun, ⟨hrunning', -⟩, hleft⟩ := hrunning.exists_run hk.le
    refine ⟨t, hrun, fun hdone => ?_⟩
    have hzero := hrunning'.stepsLeft_eq_zero.2 hdone
    omega
  · obtain ⟨t, hrun, -, hdone⟩ := hrunning.exists_run_to_done
    exact ⟨t, hrun, hdone⟩

/-- Settles O43. -/
theorem theHostObservesTheDisassembly : Obligations.TheHostObservesTheDisassembly := by
  intro s hinv
  refine ⟨fun hdone => ?_, fun hdone => if_neg hdone⟩
  obtain ⟨hprog, href, hout⟩ := hinv.outputs_of_done hdone
  rw [hostObserve, if_pos hdone, ← hprog, ← href, ← hout]

/-- Settles O41: the host's moves begin a run, which goes to DONE with the input it began with. -/
theorem runComputesTheDisassembly : Obligations.RunComputesTheDisassembly := by
  intro p width en bytes hlegal heven
  obtain ⟨t, hrun, ⟨⟨hinv, -⟩, hinput, hparams⟩, hdone⟩ :=
    (running_beginRun_loadedBlock (p := p) hlegal heven).exists_run_to_done
  have hn : t.n = bytes.length / 2 := hinput.n_eq
  have hwords : loadedWords t = wordsOfBytes bytes :=
    hinput.loadedWords_eq.trans (loadedWords_loadedBlock p ⟨width, en⟩ bytes)
  obtain ⟨-, -, ⟨-, herr⟩, hscan, -⟩ := (inv_done_iff hdone).1 hinv
  have houtputs := hinv.outputs_of_done hdone
  rw [hparams, hinput.config_eq, hwords] at houtputs
  rw [stepsLeft_of_scan_eq_zero rfl rfl] at hrun
  rw [Nat.add_comm]
  exact ⟨t, (core_run_from_reset hlegal heven _).trans hrun, hdone, hscan.trans hn, herr, houtputs⟩

end

section
/-! PROOFS. The start and the exception: when a request begins a run, what changes ERR, and that a shape error is held
until reset. -/

namespace Sys2Proof.Machine

/-! ## The start's precondition -/

/-- The start's precondition, with the configuration's part under its own name (70_reset_and_hazards.md R252). -/
theorem startEnabled_iff_configReady {s : State} :
    startEnabled s = true ↔ s.phase = .idle ∧ s.err = .none ∧ ConfigReady s := by
  rw [startEnabled_iff, ConfigReady, and_comm (a := s.config.legal = true)]

/-- A start is ignored exactly where one of its three conditions fails. -/
theorem startEnabled_eq_false_iff {s : State} :
    startEnabled s = false ↔ s.phase ≠ .idle ∨ s.err ≠ .none ∨ ¬ ConfigReady s := by
  rw [← Bool.not_eq_true, startEnabled_iff_configReady, not_and_or, not_and_or]

/-! ## What changes ERR -/

/-- The block neither sets nor clears ERR. -/
theorem err_of_blockStep {s t : State} (h : BlockStep s t) : t.err = s.err := by
  cases h <;> rfl

/-- Of the host's moves, reset clears ERR, a load of an odd number of bytes sets it, and the others keep it. -/
theorem err_of_hostStep {s t : State} {m : HostMove} (h : HostStep s m t) :
    t.err = s.err ∨ (m = .reset ∧ t.err = .none) ∨
      (t.err = .shape ∧ s.phase = .idle ∧ ∃ bytes, m = .loadBytes bytes ∧ bytes.length % 2 = 1) := by
  cases h with
  | reset => exact .inr (.inl ⟨rfl, rfl⟩)
  | loadOddBytes bytes hidle hodd =>
    exact .inr (.inr ⟨rfl, hidle, bytes, rfl, by simpa [inputShapeOk] using hodd⟩)
  | writeWidth | writeEn | loadBytes | loadWords | start | startIgnored => exact .inl rfl

/-! ## A shape error is held -/

/-- The block is in IDLE with a shape error, and the host has no reset to come. -/
structure HoldsShapeError (s : State) : Prop where
  idle : s.phase = .idle
  err : s.err = .shape
  noReset : some HostMove.reset ∉ s.hostMoves

/-- From `s` to `t` the counter and the three outputs are as before. -/
def SameOutputs (s t : State) : Prop :=
  t.scan = s.scan ∧ t.prog = s.prog ∧ t.ref = s.ref ∧ t.out = s.out

theorem sameOutputs_refl (s : State) : SameOutputs s s := ⟨rfl, rfl, rfl, rfl⟩

theorem SameOutputs.trans {s t u : State} (hst : SameOutputs s t) (htu : SameOutputs t u) : SameOutputs s u := by
  obtain ⟨hscan, hprog, href, hout⟩ := hst
  obtain ⟨hscan', hprog', href', hout'⟩ := htu
  exact ⟨hscan'.trans hscan, hprog'.trans hprog, href'.trans href, hout'.trans hout⟩

/-- Using up an entry brings no reset. -/
theorem HoldsShapeError.useEntry {s : State} (h : HoldsShapeError s) : HoldsShapeError (useEntry s) :=
  ⟨h.idle, h.err, fun hmem => h.noReset (List.mem_of_mem_tail hmem)⟩

theorem HoldsShapeError.nextMove_ne_reset {s : State} (h : HoldsShapeError s) : nextMove s ≠ some .reset := fun hm =>
  h.noReset (by rw [nextMove_eq_some.1 hm]; exact List.mem_cons_self)

/-- Under a shape error a start is ignored (70_reset_and_hazards.md R252, 60_exceptions.md R232). -/
theorem HoldsShapeError.startEnabled_eq_false {s : State} (h : HoldsShapeError s) : startEnabled s = false :=
  startEnabled_eq_false_iff.2 (.inr (.inl (by simp [h.err])))

/-- A host move other than reset does not lead out of a shape error: a load may only raise it again. -/
theorem HoldsShapeError.of_hostStep {s t : State} {m : HostMove} (hs : HoldsShapeError s) (hm : m ≠ .reset)
    (h : HostStep s m t) : HoldsShapeError t ∧ SameOutputs s t := by
  have hdisabled := hs.startEnabled_eq_false
  obtain ⟨hidle, herr, hmoves⟩ := hs
  cases h with
  | reset => exact absurd rfl hm
  | start henabled => exact absurd henabled (ne_true_of_eq_false hdisabled)
  | loadOddBytes => exact ⟨⟨hidle, rfl, hmoves⟩, rfl, rfl, rfl, rfl⟩
  | writeWidth | writeEn | loadBytes | loadWords | startIgnored => exact ⟨⟨hidle, herr, hmoves⟩, rfl, rfl, rfl, rfl⟩

/-- Under a shape error every step has its next state, and the error is still held there. -/
theorem HoldsShapeError.exists_step {s : State} (h : HoldsShapeError s) :
    ∃ t, step s = .next t ∧ HoldsShapeError t ∧ SameOutputs s t := by
  have hused := h.useEntry
  simp only [step_eq_next]
  cases hm : nextMove s with
  | none => exact ⟨_, .inl ⟨rfl, .rest (.inl hused.idle)⟩, hused, sameOutputs_refl s⟩
  | some m =>
    have hne : m ≠ .reset := by
      rintro rfl
      exact h.nextMove_ne_reset hm
    obtain ⟨t, ht⟩ := exists_hostStep_of_idle hused.idle m
    exact ⟨t, .inr ⟨m, rfl, ht⟩, hused.of_hostStep hne ht⟩

/-- However long the run, the error is held. -/
theorem HoldsShapeError.exists_run {s : State} (h : HoldsShapeError s) (k : Nat) :
    ∃ t : State, Host.Core.run core k s = .next t ∧ HoldsShapeError t ∧ SameOutputs s t := by
  induction k generalizing s with
  | zero => exact ⟨s, rfl, h, sameOutputs_refl s⟩
  | succ k ih =>
    obtain ⟨u, hstep, hheld, hsame⟩ := h.exists_step
    obtain ⟨t, hrun, hheld', hsame'⟩ := ih hheld
    exact ⟨t, (core_run_succ k s hstep).trans hrun, hheld', hsame.trans hsame'⟩

end Sys2Proof.Machine

open Sys2Proof.Machine

/-- Settles O55: a request is the host's move `startRun`, which begins a run where the precondition holds. -/
theorem startBeginsARunExactlyWhenEnabled : Obligations.StartBeginsARunExactlyWhenEnabled := by
  intro s rest hmoves
  rw [step_of_move hmoves, hostMove_eq_next, hostMove_eq_next]
  exact ⟨fun hidle herr hready => .start (startEnabled_iff_configReady.2 ⟨hidle, herr, hready⟩),
    fun hfails => .startIgnored (startEnabled_eq_false_iff.2 hfails)⟩

/-- Settles O52: the block keeps ERR, and of the host's moves only an odd load and a reset write it. -/
theorem onlyOddLoadsAndResetChangeErr : Obligations.OnlyOddLoadsAndResetChangeErr := by
  intro s t hstep hne
  rcases step_eq_next.1 hstep with ⟨-, hblock⟩ | ⟨m, hm, hhost⟩
  · exact absurd (err_of_blockStep hblock) hne
  · rcases err_of_hostStep hhost with hsame | ⟨rfl, herr⟩ | ⟨herr, hidle, bytes, rfl, hodd⟩
    · exact absurd hsame hne
    · exact .inl ⟨nextMoveIsReset_iff.2 hm, herr⟩
    · exact .inr ⟨herr, hidle, bytes, _, nextMove_eq_some.1 hm, hodd⟩

/-- Settles O51: every step under a shape error holds it, and so does every run. -/
theorem shapeErrorHoldsUntilReset : Obligations.ShapeErrorHoldsUntilReset := by
  intro k s hidle herr hmoves
  obtain ⟨t, hrun, ⟨hidle', herr', -⟩, houtputs⟩ :=
    HoldsShapeError.exists_run (s := s) ⟨hidle, herr, hmoves⟩ k
  exact ⟨t, hrun, hidle', herr', houtputs⟩

end

section
/-! PROOFS. Writing the input: what the host's writes of configuration and program do, that they are refused outside
IDLE, and that in IDLE their order does not matter. -/

namespace Sys2Proof.Machine

/-! ## The moves that write the input -/

/-- The moves that load a program: as bytes or as words. -/
inductive IsLoad : HostMove → Prop
  | bytes (bytes : List Byte) : IsLoad (.loadBytes bytes)
  | words (ws : List Word) : IsLoad (.loadWords ws)

/-- The moves that write the configuration or the program (70_reset_and_hazards.md R251). -/
inductive InputWrite : HostMove → Prop
  | width (w : BitVec 3) : InputWrite (.writeWidth w)
  | en (e : Bool) : InputWrite (.writeEn e)
  | load {m : HostMove} (h : IsLoad m) : InputWrite m

/-- `nextMoveWritesInput` finds an input write at the head of the host's entries. -/
theorem exists_inputWrite_of_nextMoveWritesInput {s : State} (h : nextMoveWritesInput s = true) :
    ∃ m rest, s.hostMoves = some m :: rest ∧ InputWrite m := by
  unfold nextMoveWritesInput at h
  split at h
  next w rest hmoves => exact ⟨_, rest, hmoves, .width w⟩
  next e rest hmoves => exact ⟨_, rest, hmoves, .en e⟩
  next bytes rest hmoves => exact ⟨_, rest, hmoves, .load (.bytes bytes)⟩
  next ws rest hmoves => exact ⟨_, rest, hmoves, .load (.words ws)⟩
  next => cases h

/-- Outside IDLE an input write is refused by name (70_reset_and_hazards.md R254, R255). -/
theorem InputWrite.hostMove_of_not_idle {s : State} {m : HostMove} (h : InputWrite m) (hphase : s.phase ≠ .idle) :
    hostMove m s = .refused .hostMoveOutsideIdle := by
  rcases h with _ | _ | ⟨_ | _⟩ <;> exact if_neg hphase

/-! ## What a move does in IDLE -/

/-- The effect of a host move, where the host has it. -/
def moveEffect : HostMove → State → State
  | .reset => applyReset
  | .writeWidth w => writeCfgWidth w
  | .writeEn e => writeCfgEn e
  | .loadBytes bytes => loadBytes bytes
  | .loadWords ws => loadWords ws
  | .start => startRun

/-- In IDLE the host has every move. -/
theorem hostMove_of_idle {s : State} (hidle : s.phase = .idle) (m : HostMove) :
    hostMove m s = .next (moveEffect m s) := by
  cases m with
  | reset | start => rfl
  | writeWidth | writeEn | loadBytes | loadWords => exact if_pos hidle

section Effects
variable {s : State} {m : HostMove}

theorem loadBytes_of_even {bytes : List Byte} (heven : bytes.length % 2 = 0) :
    loadBytes bytes s = { s with n := bytes.length / 2, wmem := Memory.ofBytes bytes } := by
  simp [loadBytes, inputShapeOk, heven]

theorem loadBytes_of_odd {bytes : List Byte} (hodd : bytes.length % 2 = 1) :
    loadBytes bytes s = { s with err := .shape } := by
  simp [loadBytes, inputShapeOk, hodd, raiseShape]

/-- What a load writes, N and WMEM or else ERR, does not depend on the state it finds. -/
theorem IsLoad.moveEffect_eq (h : IsLoad m) :
    (∃ n wmem, ∀ s, moveEffect m s = { s with n := n, wmem := wmem }) ∨
      ∀ s, moveEffect m s = { s with err := .shape } := by
  cases h with
  | bytes bytes =>
    rcases Nat.mod_two_eq_zero_or_one bytes.length with heven | hodd
    · exact .inl ⟨_, _, fun _ => loadBytes_of_even heven⟩
    · exact .inr fun _ => loadBytes_of_odd hodd
  | words ws => exact .inl ⟨_, _, fun _ => rfl⟩

/-- An input write leaves the block in the phase it was in. -/
theorem InputWrite.moveEffect_phase (h : InputWrite m) : (moveEffect m s).phase = s.phase := by
  cases h with
  | width | en => rfl
  | load hload => rcases hload.moveEffect_eq with ⟨n, wmem, heq⟩ | heq <;> simp only [heq]

/-- An input write neither reads nor writes the host's entries. -/
theorem InputWrite.moveEffect_hostMoves (h : InputWrite m) (rest : List (Option HostMove)) :
    moveEffect m { s with hostMoves := rest } = { moveEffect m s with hostMoves := rest } := by
  cases h with
  | width | en => rfl
  | load hload => rcases hload.moveEffect_eq with ⟨n, wmem, heq⟩ | heq <;> simp only [heq]

/-- In IDLE a step with an input write to come has its effect and uses up the entry. -/
theorem InputWrite.step_of_idle (h : InputWrite m) (hidle : s.phase = .idle) {rest : List (Option HostMove)} :
    step { s with hostMoves := some m :: rest } = .next { moveEffect m s with hostMoves := rest } := by
  have hmove := hostMove_of_idle (s := { s with hostMoves := rest }) hidle m
  rw [h.moveEffect_hostMoves] at hmove
  exact (step_of_move rfl).trans hmove

end Effects

/-! ## A run of input writes -/

/-- In IDLE a run over input writes has their effects, one after the other. -/
theorem core_run_inputWrites {moves : List HostMove} (rest : List (Option HostMove)) {s : State}
    (hidle : s.phase = .idle) (hwrites : ∀ m ∈ moves, InputWrite m) :
    Host.Core.run core moves.length { s with hostMoves := moves.map some ++ rest } =
      .next ({ moves.foldl (fun s m => moveEffect m s) s with hostMoves := rest } : State) := by
  induction moves generalizing s with
  | nil => rfl
  | cons m moves ih =>
    obtain ⟨hm, hwrites⟩ := List.forall_mem_cons.1 hwrites
    exact (core_run_succ _ _ (hm.step_of_idle hidle)).trans (ih (hm.moveEffect_phase.trans hidle) hwrites)

/-! ## The order of the input writes -/

/-- A load and the write of a configuration register touch different parts of the state. -/
theorem IsLoad.commute_config {m : HostMove} (h : IsLoad m) (w : BitVec 3) (e : Bool) :
    Function.Commute (writeCfgWidth w) (moveEffect m) ∧ Function.Commute (writeCfgEn e) (moveEffect m) := by
  rcases h.moveEffect_eq with ⟨n, wmem, heq⟩ | heq <;>
    exact ⟨fun s => by simp only [heq, writeCfgWidth], fun s => by simp only [heq, writeCfgEn]⟩

/-- Of the two configuration writes and one load, any two commute (70_reset_and_hazards.md R251). -/
theorem IsLoad.inputWrites_commute {m : HostMove} (h : IsLoad m) (w : BitVec 3) (e : Bool) :
    ∀ a ∈ [.writeWidth w, .writeEn e, m], ∀ b ∈ [.writeWidth w, .writeEn e, m],
      Function.Commute (moveEffect a) (moveEffect b) := by
  obtain ⟨hwidth, hen⟩ := h.commute_config w e
  have hconfig : Function.Commute (writeCfgWidth w) (writeCfgEn e) := fun _ => rfl
  have hpairs : [.writeWidth w, .writeEn e, m].Pairwise fun a b =>
      Function.Commute (moveEffect a) (moveEffect b) := by
    simpa [moveEffect] using And.intro ⟨hconfig, hwidth⟩ hen
  exact hpairs.forall_of_forall_of_flip (fun a _ => .refl (moveEffect a)) (hpairs.imp .symm)

/-- In IDLE the two configuration writes and one load lead to the same state in every order. -/
theorem IsLoad.core_run_of_perm {m : HostMove} (h : IsLoad m) {s : State} {w : BitVec 3} {e : Bool}
    {moves : List HostMove} (rest : List (Option HostMove)) (hidle : s.phase = .idle)
    (hperm : moves.Perm [.writeWidth w, .writeEn e, m]) :
    Host.Core.run core 3 { s with hostMoves := moves.map some ++ rest } =
      .next ({ moveEffect m (writeCfgEn e (writeCfgWidth w s)) with hostMoves := rest } : State) := by
  have hwrites : ∀ a ∈ moves, InputWrite a := by
    intro a ha
    have hcases : a = .writeWidth w ∨ a = .writeEn e ∨ a = m := by simpa using hperm.mem_iff.1 ha
    rcases hcases with rfl | rfl | rfl
    · exact .width w
    · exact .en e
    · exact .load h
  have horder : moves.foldl (fun s m => moveEffect m s) s = moveEffect m (writeCfgEn e (writeCfgWidth w s)) :=
    hperm.foldl_eq' (fun a ha b hb t =>
      h.inputWrites_commute w e b (hperm.mem_iff.1 hb) a (hperm.mem_iff.1 ha) t) s
  have hrun := core_run_inputWrites rest hidle hwrites
  rwa [horder, hperm.length_eq] at hrun

end Sys2Proof.Machine

open Sys2Proof.Machine

/-- Settles O56: the next entry is an input write, and such a move exists in IDLE only. -/
theorem inputWritesOutsideIdleAreRefused : Obligations.InputWritesOutsideIdleAreRefused := by
  intro s hwrites hphase
  obtain ⟨m, rest, hmoves, hinput⟩ := exists_inputWrite_of_nextMoveWritesInput hwrites
  exact (step_of_move hmoves).trans (hinput.hostMove_of_not_idle hphase)

/-- Settles O54: the moves commute, so each order leads where configuring first and then loading does. -/
theorem configureAndLoadInAnyOrder : Obligations.ConfigureAndLoadInAnyOrder := by
  intro s width en moves rest hidle
  refine ⟨fun bytes heven hperm => ?_, fun bytes hodd hperm => ?_, fun ws hperm => ?_⟩
  · rw [(IsLoad.bytes bytes).core_run_of_perm rest hidle hperm, moveEffect, loadBytes_of_even heven]
    rfl
  · rw [(IsLoad.bytes bytes).core_run_of_perm rest hidle hperm, moveEffect, loadBytes_of_odd hodd]
    rfl
  · exact (IsLoad.words ws).core_run_of_perm rest hidle hperm

end

section
/-! PROOFS. Words written out: a table word of 16 bits decodes by the rule of its class, which says what every field of
the instruction is. -/

namespace Sys2Proof.Machine

/-- The decoder reads a table word of 16 bits as the word of that number. -/
theorem decodeTableWord_sixteen {w : Nat} (h : w < 65536) :
    decodeTableWord 16 w = some (decodeWord (BitVec.ofNat 16 w)) :=
  calc decodeTableWord 16 w
      = some (decodeWord (Word.ofBytes (tableWord 16 w).hiByte (tableWord 16 w).loByte)) := rfl
    _ = some (decodeWord (BitVec.ofNat 16 w)) := by rw [ofBytes_hiByte_loByte, tableWord_sixteen h]

theorem decodeTableWord_eq_some {w : Nat} {i : Instr} (h : w < 65536) (hi : decodeWord (BitVec.ofNat 16 w) = i) :
    decodeTableWord 16 w = some i :=
  (decodeTableWord_sixteen h).trans (congrArg some hi)

end Sys2Proof.Machine

open Sys2Proof Sys2Proof.Machine

/-- Settles O5, class by class; in class PUSH/PULL bit 7 selects the instruction. -/
theorem writtenOutWordsDecodeRight : Obligations.WrittenOutWordsDecodeRight := by
  refine ⟨?jmp, ?wait, ?in_, ?out, ?push, ?pull, ?mov, ?irq, ?set⟩ <;> refine decodeTableWord_eq_some (by decide) ?_
  case jmp => exact decodeWord_jmp rfl
  case wait => exact decodeWord_wait rfl
  case in_ => exact decodeWord_in rfl
  case out => exact decodeWord_out rfl
  case push => exact decodeWord_push rfl rfl
  case pull => exact decodeWord_pull rfl rfl
  case mov => exact decodeWord_mov rfl
  case irq => exact decodeWord_irq rfl
  case set => exact decodeWord_set rfl

end
